-- ==== Sys2Proof/Word.lean ====
section
/-! DEFINITION. The byte, the only word the block has (10_state.md R13, 20_memory.md R37: no value is wider than a byte). -/

namespace Sys2Proof

/-- A byte, bit 7 the most significant (00_scope.md R10). -/
abbrev Byte := BitVec 8

end Sys2Proof
end

