-- ==== Sys2Proof/Config.lean ====
section
/-! DEFINITION. The two parameters and the two constants of 00_scope.md R8. -/

namespace Sys2Proof

/-- The parameters, fixed before reset and never changed (R8, 70_reset_and_hazards.md R145).
They travel in State as plain data, so that every claim is about every `N` and every `MAX_PAYLOAD`. -/
structure Config where
  /-- `N`, the number of queue slots; the source gives no number (92_eei_decisions.md D4). -/
  n : Nat
  /-- `MAX_PAYLOAD`, the payload ceiling; source default 128. -/
  maxPayload : Nat
deriving DecidableEq, Repr

/-- The constraints of R8: `N >= 2` (D4) and `2 <= MAX_PAYLOAD <= 256` (D5). -/
abbrev Config.ok (c : Config) : Prop := 2 ≤ c.n ∧ 2 ≤ c.maxPayload ∧ c.maxPayload ≤ 256

/-- The parameters `State.reset` takes. DESIGN CHOICE for `N = 16` (log 1); 128 is the source's default. -/
def Config.reference : Config := { n := 16, maxPayload := 128 }

/-- The start marker `SOF` (R8). -/
def sof : Byte := 0xAA

/-- The string terminator `TERM` (R8, D6). -/
def term : Byte := 0x00

end Sys2Proof
end

