-- ==== Sys2Proof/Syntax.lean ====
section
/-! DEFINITION. The operations and byte classes of opcode_table.json, one constructor per row, and the events that carry them. -/

namespace Sys2Proof

/-- The parser's control state, symbolic (10_state.md R19, D16). -/
inductive PState where
  | idle
  | lengthExpected
  | payloadAccumulating
  | checksumExpected
deriving DecidableEq, Repr

/-- The seven byte classes of 30_encoding.md R58. -/
inductive ByteClass where
  | idleSof
  | idleSkip
  | lenOk
  | lenBad
  | payload
  | csumBad
  | csumOk
deriving DecidableEq, Repr

/-- The sixteen rows of opcode_table.json. `FEED.LEN.BAD` has two rows and so two constructors. -/
inductive Instr where
  /-- `ENQ b`: one received byte (R70). -/
  | enq (b : Byte)
  /-- `DEQ` (R72). -/
  | deq
  /-- `FEED b` (R78). -/
  | feed (b : Byte)
  /-- `POLL` (R88). -/
  | poll
  /-- `RESPOND resp` (R89). -/
  | respond (resp : List Byte)
  /-- `SEND resp` (R95). -/
  | send (resp : List Byte)
  /-- `RESET` (R143). -/
  | reset
  /-- `FEED.IDLE.SOF`: the byte is `0xAA` (R79). -/
  | feedIdleSof
  /-- `FEED.IDLE.SKIP`, the byte is any other (R80). -/
  | feedIdleSkip (b : Byte)
  /-- `FEED.LEN.BAD`, row "zero length" (R82). -/
  | feedLenBadZero
  /-- `FEED.LEN.BAD`, row "length >= MAX_PAYLOAD" (R82). -/
  | feedLenBadOver (b : Byte)
  /-- `FEED.LEN.OK` (R81). -/
  | feedLenOk (b : Byte)
  /-- `FEED.PAYLOAD` (R83). -/
  | feedPayload (b : Byte)
  /-- `FEED.CSUM.OK` (R85). -/
  | feedCsumOk (b : Byte)
  /-- `FEED.CSUM.BAD` (R84). -/
  | feedCsumBad (b : Byte)
  /-- `FRAME`: the wire frame of a payload (R53, R56). -/
  | frame (p : List Byte)
deriving DecidableEq, Repr

/-- Where an operation's event arrives. An operation is an event at a port and has no opcode bits (R67):
the port says which operation it is, the bytes are its operand. Log 15. -/
inductive Port where
  /-- The RX channel: one received byte (R28). -/
  | rx
  /-- The queue's read side alone (trace line `DEQ`, R65). -/
  | dequeue
  /-- The parser alone (trace line `FEED b`, R65, R66). -/
  | feed
  /-- The consumer's turn (R88). -/
  | poll
  /-- The RESP channel (R30). -/
  | resp
  /-- The emitter alone (trace line `SEND resp`, R65). -/
  | send
  /-- The reset port (R32). -/
  | rst
  /-- A byte in front of the parser's decoder, to be classified by R58. -/
  | byteClass
  /-- A whole wire frame (R53). -/
  | wire
deriving DecidableEq, Repr

/-- One event: a port and the bytes presented there. -/
structure PortEvent where
  port : Port
  data : List Byte
deriving DecidableEq, Repr

/-- The events an agent performs on its own (30_encoding.md R64, R66). `DEQ`, `FEED`, `SEND` and a lone byte
class are "never performed on their own by an agent". -/
def Port.ofAgent : Port → Bool
  | .rx => true
  | .dequeue => false
  | .feed => false
  | .poll => true
  | .resp => true
  | .send => false
  | .rst => true
  | .byteClass => false
  | .wire => true

end Sys2Proof
end

