-- ==== Sys2Proof/WellFormed.lean ====
section
/-! DEFINITION. Which terms of Instr are instructions at given parameters: the operand conditions of 30_encoding.md R58 and R56. -/

namespace Sys2Proof

/-- The operand conditions of the table's rows. What depends on the state (`b == acc`) is no condition on the
term and stands in `Instr.selected` (Decode.lean). -/
def Instr.wf (c : Config) : Instr → Bool
  | .enq _ => true
  | .deq => true
  | .feed _ => true
  | .poll => true
  | .respond _ => true
  | .send _ => true
  | .reset => true
  | .feedIdleSof => true
  | .feedIdleSkip b => b != sof
  | .feedLenBadZero => true
  | .feedLenBadOver b => b != 0 && decide (c.maxPayload ≤ b.toNat)
  | .feedLenOk b => decide (0 < b.toNat) && decide (b.toNat < c.maxPayload)
  | .feedPayload _ => true
  | .feedCsumOk _ => true
  | .feedCsumBad _ => true
  | .frame p => decide (0 < p.length) && decide (p.length < c.maxPayload)

end Sys2Proof
end

