-- ==== Sys2Proof/Decode.lean ====
section
/-! DEFINITION. The wire frame, the byte classes, the decoder of events and its encoder (30_encoding.md), and the reading of opcode_table.json's own rows. -/

namespace Sys2Proof

/-- `sum(s)` of R10, a natural number. -/
def sumBytes : List Byte → Nat
  | [] => 0
  | b :: bs => b.toNat + sumBytes bs

/-- `cksum(p)` of R55: the payload's sum modulo 256. -/
def cksum (p : List Byte) : Byte := BitVec.ofNat 8 (sumBytes p)

/-- `0 < L < MAX_PAYLOAD`, the one length condition of parser and emitter (R54, R56, R96), on a natural number. -/
def lengthInRange (maxPayload len : Nat) : Bool := decide (0 < len) && decide (len < maxPayload)

/-- `frame(p)` of R56: start marker, length, payload, checksum. -/
def frameOf (p : List Byte) : List Byte := sof :: BitVec.ofNat 8 p.length :: (p ++ [cksum p])

/-- What a byte's decoding depends on beside the byte (R58, R67): the ceiling, `pstate` and `acc`. -/
structure DecodeCtx where
  maxPayload : Nat
  pstate : PState
  acc : Byte
deriving DecidableEq, Repr

/-- The class of a byte, by the "condition" column of R58. -/
def classify (c : DecodeCtx) (b : Byte) : ByteClass :=
  match c.pstate with
  | .idle => if b = sof then .idleSof else .idleSkip
  | .lengthExpected => if lengthInRange c.maxPayload b.toNat then .lenOk else .lenBad
  | .payloadAccumulating => .payload
  | .checksumExpected => if b = c.acc then .csumOk else .csumBad

/-- The table row of a byte of a given class; the two `FEED.LEN.BAD` rows are told apart by the byte. -/
def instrOfClass (k : ByteClass) (b : Byte) : Instr :=
  match k with
  | .idleSof => .feedIdleSof
  | .idleSkip => .feedIdleSkip b
  | .lenOk => .feedLenOk b
  | .lenBad => if b = 0 then .feedLenBadZero else .feedLenBadOver b
  | .payload => .feedPayload b
  | .csumBad => .feedCsumBad b
  | .csumOk => .feedCsumOk b

/-- The row that applies to byte `b`; total, every byte in every state has one (R59, R68). -/
def decodeByte (c : DecodeCtx) (b : Byte) : Instr := instrOfClass (classify c b) b

/-- Why an event carries no operation. Log 15. -/
inductive DecodeError where
  /-- The port takes another number of operand bytes. -/
  | wrongOperand
  /-- A wire frame does not begin with `0xAA` (R53). -/
  | noStartMarker
  /-- A wire frame's length byte is 0 or at least `MAX_PAYLOAD` (R54). -/
  | badLength
  /-- A wire frame ends early. -/
  | truncated
  /-- Bytes stand after a wire frame's checksum. -/
  | trailingBytes
  /-- A wire frame's last byte is not the checksum of its payload (R55). -/
  | badChecksum
deriving DecidableEq, Repr

/-- The decoder's answer. -/
inductive Decoded where
  | instr (i : Instr)
  | reject (r : DecodeError)
deriving DecidableEq, Repr

/-- The payload and checksum part of a wire frame whose length byte is `n`. -/
def decodeBody (n : Nat) (body : List Byte) : Decoded :=
  match body.drop n with
  | [] => .reject .truncated
  | [c] => if c = cksum (body.take n) then .instr (.frame (body.take n)) else .reject .badChecksum
  | _ :: _ :: _ => .reject .trailingBytes

/-- Reads a whole wire frame (R53, R56). -/
def decodeFrame (maxPayload : Nat) (w : List Byte) : Decoded :=
  match w with
  | [] => .reject .noStartMarker
  | s :: rest =>
    if s = sof then
      match rest with
      | [] => .reject .truncated
      | n :: body => if lengthInRange maxPayload n.toNat then decodeBody n.toNat body else .reject .badLength
    else .reject .noStartMarker

/-- The decoder: total on every event, rejecting by name. -/
def decode (c : DecodeCtx) (e : PortEvent) : Decoded :=
  match e.port with
  | .rx => match e.data with
    | [b] => .instr (.enq b)
    | _ => .reject .wrongOperand
  | .dequeue => match e.data with
    | [] => .instr .deq
    | _ => .reject .wrongOperand
  | .feed => match e.data with
    | [b] => .instr (.feed b)
    | _ => .reject .wrongOperand
  | .poll => match e.data with
    | [] => .instr .poll
    | _ => .reject .wrongOperand
  | .resp => .instr (.respond e.data)
  | .send => .instr (.send e.data)
  | .rst => match e.data with
    | [] => .instr .reset
    | _ => .reject .wrongOperand
  | .byteClass => match e.data with
    | [b] => .instr (decodeByte c b)
    | _ => .reject .wrongOperand
  | .wire => decodeFrame c.maxPayload e.data

/-- The encoder: the port and operand bytes of each row's "encoding" (or "match") in opcode_table.json. -/
def encode : Instr → PortEvent
  | .enq b => { port := .rx, data := [b] }
  | .deq => { port := .dequeue, data := [] }
  | .feed b => { port := .feed, data := [b] }
  | .poll => { port := .poll, data := [] }
  | .respond resp => { port := .resp, data := resp }
  | .send resp => { port := .send, data := resp }
  | .reset => { port := .rst, data := [] }
  | .feedIdleSof => { port := .byteClass, data := [sof] }
  | .feedIdleSkip b => { port := .byteClass, data := [b] }
  | .feedLenBadZero => { port := .byteClass, data := [0] }
  | .feedLenBadOver b => { port := .byteClass, data := [b] }
  | .feedLenOk b => { port := .byteClass, data := [b] }
  | .feedPayload b => { port := .byteClass, data := [b] }
  | .feedCsumOk b => { port := .byteClass, data := [b] }
  | .feedCsumBad b => { port := .byteClass, data := [b] }
  | .frame p => { port := .wire, data := frameOf p }

/-- The state part of a byte-class row's condition (R58): the row's `pstate`, and the comparison with `acc`.
Rows that are no byte class hold in every state. -/
def Instr.selected (c : DecodeCtx) : Instr → Bool
  | .feedIdleSof => decide (c.pstate = .idle)
  | .feedIdleSkip _ => decide (c.pstate = .idle)
  | .feedLenBadZero => decide (c.pstate = .lengthExpected)
  | .feedLenBadOver _ => decide (c.pstate = .lengthExpected)
  | .feedLenOk _ => decide (c.pstate = .lengthExpected)
  | .feedPayload _ => decide (c.pstate = .payloadAccumulating)
  | .feedCsumOk b => decide (c.pstate = .checksumExpected) && decide (b = c.acc)
  | .feedCsumBad b => decide (c.pstate = .checksumExpected) && decide (b ≠ c.acc)
  | .enq _ => true
  | .deq => true
  | .feed _ => true
  | .poll => true
  | .respond _ => true
  | .send _ => true
  | .reset => true
  | .frame _ => true

/-! The match and mask columns of opcode_table.json, good at `MAX_PAYLOAD = 128` (R58, R67). -/

/-- A row's "match": a constant or the state element `acc`. -/
inductive RowMatch where
  | const (v : Byte)
  | acc
deriving DecidableEq, Repr

/-- One byte-class row of opcode_table.json. -/
structure ClassRow where
  pstate : PState
  value : RowMatch
  mask : Byte
  cls : ByteClass
deriving DecidableEq, Repr

/-- The rows in the table's order within each state (R67). -/
def classRows : List ClassRow :=
  [ { pstate := .idle, value := .const 0xAA, mask := 0xFF, cls := .idleSof },
    { pstate := .idle, value := .const 0x00, mask := 0x00, cls := .idleSkip },
    { pstate := .lengthExpected, value := .const 0x00, mask := 0xFF, cls := .lenBad },
    { pstate := .lengthExpected, value := .const 0x80, mask := 0x80, cls := .lenBad },
    { pstate := .lengthExpected, value := .const 0x00, mask := 0x80, cls := .lenOk },
    { pstate := .payloadAccumulating, value := .const 0x00, mask := 0x00, cls := .payload },
    { pstate := .checksumExpected, value := .acc, mask := 0xFF, cls := .csumOk },
    { pstate := .checksumExpected, value := .const 0x00, mask := 0x00, cls := .csumBad } ]

/-- A row applies when the state is the row's and `(b AND mask) == match` (R67). -/
def ClassRow.applies (r : ClassRow) (ps : PState) (acc b : Byte) : Bool :=
  decide (r.pstate = ps) && decide (b &&& r.mask = match r.value with | .const v => v | .acc => acc)

/-- The first row that applies. -/
def classifyByRows (ps : PState) (acc b : Byte) : Option ByteClass :=
  (classRows.find? fun r => r.applies ps acc b).map ClassRow.cls

/-! A word of opcode_table.json read as an event. The table gives operations no opcode bits, so a word alone does not say
which row it is. A word of one byte is read as a byte class in the state of the row whose constant bits it has; an empty
word as the consumer's turn; a longer word as a wire frame, first byte in the low bits. Log 9. -/

/-- The first `k` bytes of a word, the first in bits 7..0. -/
def tableBytes (w : Nat) : Nat → List Byte
  | 0 => []
  | k + 1 => BitVec.ofNat 8 w :: tableBytes (w / 256) k

/-- The event a table word stands for. -/
def tableEvent (nbits w : Nat) : PortEvent :=
  if nbits = 0 then { port := .poll, data := [] }
  else if nbits ≤ 8 then { port := .byteClass, data := [BitVec.ofNat 8 w] }
  else { port := .wire, data := tableBytes w (w / 256 % 256 + 3) }

/-- The state of the row that a one-byte table word is read in: `Idle` for the row with match `0xAA`, `LengthExpected`
for the other rows with constant bits. -/
def tableState (w : Nat) : PState := if BitVec.ofNat 8 w = sof then .idle else .lengthExpected

/-- The instruction of a table word, at the ceiling the table's match and mask columns are made for. -/
def decodeTableWord (nbits w : Nat) : Option Instr :=
  match decode { maxPayload := 128, pstate := tableState w, acc := 0 } (tableEvent nbits w) with
  | .instr i => some i
  | .reject _ => none

end Sys2Proof
end

