-- ==== Sys2Proof/Machine/State.lean ====
section
/-! DEFINITION. The state of the framer block (10_state.md), its reset value, and the reasons a step stops. -/

namespace Sys2Proof.Machine

/-- One of the block's two byte memories (20_memory.md R35): the written bytes, by index. An index that is not listed
holds no value (R16, R23, U11; log 5). -/
abbrev Memory := List Host.Cell

/-- The canonical form: indexes strictly rising. (No listed entry can equal what an unlisted index reads as, since that
is no value.) -/
def Memory.wf : Memory → Bool
  | [] => true
  | [_] => true
  | (a, _) :: (b, v) :: rest => decide (a < b) && Memory.wf ((b, v) :: rest)

/-- A DELIVER event `(n, p)` (10_state.md R29). -/
structure Delivery where
  n : Nat
  payload : List Byte
deriving DecidableEq, Repr

/-- The named result of an operation (00_scope.md R11), with the byte it was about. Log 13. -/
inductive OpOutcome where
  /-- ENQ stored its byte (R70). -/
  | stored (b : Byte)
  /-- ENQ dropped its byte: QueueOverflow (R70, R120). -/
  | dropped (b : Byte)
  /-- DEQ's result, `Some b` or `None` (R72). -/
  | dequeued (r : Option Byte)
  /-- The class FEED applied (R78). -/
  | fed (k : ByteClass)
  /-- POLL's result: `None`, or the class of the dequeued byte (R88). -/
  | polled (r : Option ByteClass)
  /-- SEND framed and sent its response (R95). -/
  | sent
  /-- SEND sent nothing: EmitSkipped (R96, R123). -/
  | skipped
deriving DecidableEq, Repr

/-- The machine's state: the nine elements of R13, the two outputs (R29, R31), and the model's own fields. -/
structure State where
  /-- `N` and `MAX_PAYLOAD` (R8, R145). Model's own place for them; log 1. -/
  cfg : Config
  /-- `slot[0..N-1]` (R16). -/
  slot : Memory
  /-- The write cursor (R14). -/
  head : Nat
  /-- The read cursor (R15). -/
  tail : Nat
  /-- The parser's control state (R19). -/
  pstate : PState
  /-- The length byte of the frame in progress (R20). -/
  declaredLength : Byte
  /-- The running sum (R21). -/
  acc : Byte
  /-- The number of payload bytes stored (R22). -/
  writeIndex : Nat
  /-- `payloadBuffer[0..MAX_PAYLOAD-1]` (R23). -/
  payloadBuffer : Memory
  /-- A delivered payload awaits its response (R24). -/
  busy : Bool
  /-- The delivery output, oldest first (R11, R29). -/
  deliveries : List Delivery
  /-- The transmit output: the byte groups handed over, oldest first (R11, R31). -/
  tx : List (List Byte)
  /-- The event history of outcomes, oldest first (R11, R124). Model's own; log 13. -/
  outcomes : List OpOutcome
  /-- The environment's schedule: the events still to come, oldest first (R43, R44). Model's own; log 7. -/
  pending : List PortEvent
deriving DecidableEq, Repr

/-- Why a step stops with a fault. None is reachable from reset. -/
inductive Fault where
  /-- Raised by DEQ and POLL reading a slot that no ENQ has written (U11: "a read would be a `fault`"). Safe. Log 5. -/
  | slotUnwritten
  /-- Raised by FEED, POLL and FEED.CSUM.OK delivering, and by the dispatcher reading, an unwritten payload byte (U11). Safe. Log 5. -/
  | payloadUnwritten
  /-- Raised by a queue access at an index outside `[0, N-1]` (R36: cannot happen from reset). Safe. Log 6. -/
  | slotOutOfRange
  /-- Raised by a payload buffer access at an index outside `[0, MAX_PAYLOAD-1]` (R36: cannot happen from reset). Safe. Log 6. -/
  | payloadOutOfRange
deriving DecidableEq, Repr

/-- Why a step is refused. -/
inductive Refusal where
  /-- Raised by exec for an instruction with no meaning yet; no arm raises it now. Safe. -/
  | notModelled (mnemonic : String)
  /-- Raised by POLL at `busy = 1`: "When `busy == 1` POLL is not enabled" (R88). Safe. Log 10. -/
  | pollNotEnabled
  /-- Raised by RESPOND at `busy = 0`: "When `busy == 0` RESPOND is not enabled" (R89). Safe. Log 10. -/
  | respondNotEnabled
  /-- Raised by a byte class the state and byte do not select (R58). Safe. Log 11. -/
  | classNotSelected
  /-- Raised by FRAME for a payload that has no frame (R56). Safe. Log 12. -/
  | frameUndefined
  /-- Raised by step for an event that carries no operation. Safe. Log 15. -/
  | undecodable (r : DecodeError)
  /-- Raised by step at parameters outside R8's constraints (D5). Safe. Log 2. -/
  | parameterOutOfRange
deriving DecidableEq, Repr

/-- The state right after reset at given parameters (10_state.md R34). -/
def State.resetWith (c : Config) : State :=
  { cfg := c
    slot := []
    head := 0
    tail := 0
    pstate := .idle
    declaredLength := 0
    acc := 0
    writeIndex := 0
    payloadBuffer := []
    busy := false
    deliveries := []
    tx := []
    outcomes := []
    pending := [] }

/-- The state right after reset, at the reference parameters (log 1). -/
def State.reset : State := State.resetWith Config.reference

/-- What the decoding of a byte reads of the state (R58). -/
def State.ctx (s : State) : DecodeCtx := { maxPayload := s.cfg.maxPayload, pstate := s.pstate, acc := s.acc }

/-! One named update per field; each leaves every other field alone (Laws/State.lean). -/

def State.setSlot (s : State) (m : Memory) : State := { s with slot := m }
def State.setHead (s : State) (i : Nat) : State := { s with head := i }
def State.setTail (s : State) (i : Nat) : State := { s with tail := i }
def State.setPstate (s : State) (p : PState) : State := { s with pstate := p }
def State.setDeclaredLength (s : State) (b : Byte) : State := { s with declaredLength := b }
def State.setAcc (s : State) (b : Byte) : State := { s with acc := b }
def State.setWriteIndex (s : State) (i : Nat) : State := { s with writeIndex := i }
def State.setPayloadBuffer (s : State) (m : Memory) : State := { s with payloadBuffer := m }
def State.setBusy (s : State) (b : Bool) : State := { s with busy := b }
def State.setDeliveries (s : State) (l : List Delivery) : State := { s with deliveries := l }
def State.setTx (s : State) (l : List (List Byte)) : State := { s with tx := l }
def State.setOutcomes (s : State) (l : List OpOutcome) : State := { s with outcomes := l }
def State.setPending (s : State) (l : List PortEvent) : State := { s with pending := l }

end Sys2Proof.Machine
end

