-- ==== Sys2Proof/Machine/Flags.lean ====
section
/-! DEFINITION. The computed conditions of the queue (10_state.md R17, R18) and the arithmetic they rest on. The block stores no flag. -/

namespace Sys2Proof.Machine

/-- The cursor advance `(c + 1) mod N` of 00_scope.md R10: `c + 1` if `c + 1 < N`, else `0` (an explicit compare, R14). Log 16. -/
def advance (n c : Nat) : Nat := if c + 1 < n then c + 1 else 0

/-- `(c + k) mod N` for a cursor and a count below `N`, by the same compare. -/
def wrapAdd (n c k : Nat) : Nat := if c + k < n then c + k else c + k - n

/-- `empty := (head == tail)` (R17). -/
def State.empty (s : State) : Bool := decide (s.head = s.tail)

/-- `full := ((head + 1) mod N == tail)` (R17). -/
def State.full (s : State) : Bool := decide (advance s.cfg.n s.head = s.tail)

/-- `count := (head - tail) mod N` (R17). -/
def State.count (s : State) : Nat := if s.tail ≤ s.head then s.head - s.tail else s.head + s.cfg.n - s.tail

/-- The checksum accumulation `(acc + b) mod 256`, the carry discarded (R10, R83). -/
def addByte (acc b : Byte) : Byte := acc + b

end Sys2Proof.Machine
end

