-- ==== Sys2Proof/Machine/Ops.lean ====
section
/-! DEFINITION. The shared operations: memory, the queue's two operations, taking a transport error, the outputs. -/

namespace Sys2Proof.Machine

/-! Memory -/

/-- The byte at an index, none where nothing has been written (R16, R23). -/
def Memory.read : Memory → Nat → Option Byte
  | [], _ => none
  | (k, v) :: rest, a => if k = a then some v else Memory.read rest a

/-- Writes one byte, keeping the indexes rising. -/
def Memory.write : Memory → Nat → Byte → Memory
  | [], a, b => [(a, b)]
  | (k, v) :: rest, a, b =>
    if a < k then (a, b) :: (k, v) :: rest
    else if a = k then (a, b) :: rest
    else (k, v) :: Memory.write rest a b

/-- The `len` bytes from index `i` on, none if one of them is unwritten. -/
def Memory.readRange (m : Memory) (i : Nat) : Nat → Option (List Byte)
  | 0 => some []
  | len + 1 =>
    match Memory.read m i, Memory.readRange m (i + 1) len with
    | some b, some bs => some (b :: bs)
    | _, _ => none

/-- `slot[i]` (R11): `MemRead(Q, i, 1)`. -/
def readSlot (i : Nat) (s : State) : Except Fault Byte :=
  if i < s.cfg.n then
    match Memory.read s.slot i with
    | some b => .ok b
    | none => .error .slotUnwritten
  else .error .slotOutOfRange

/-- `slot[i] <- b` (R11): `MemWrite(Q, i, 1, b)`. -/
def writeSlot (i : Nat) (b : Byte) (s : State) : Except Fault State :=
  if i < s.cfg.n then .ok (s.setSlot (Memory.write s.slot i b)) else .error .slotOutOfRange

/-- `payloadBuffer[i] <- b` (R11): `MemWrite(PB, i, 1, b)`. -/
def writePayload (i : Nat) (b : Byte) (s : State) : Except Fault State :=
  if i < s.cfg.maxPayload then .ok (s.setPayloadBuffer (Memory.write s.payloadBuffer i b)) else .error .payloadOutOfRange

/-- `payloadBuffer[0 .. len-1]` (R11). -/
def readPayload (len : Nat) (s : State) : Except Fault (List Byte) :=
  match Memory.readRange s.payloadBuffer 0 len with
  | some p => .ok p
  | none => .error .payloadUnwritten

/-! The queue's abstract value (R18) -/

/-- The index of the `k`-th oldest byte held. -/
def State.queueIndex (s : State) (k : Nat) : Nat := wrapAdd s.cfg.n s.tail k

/-- `contents` of R18, oldest first. -/
def State.contents (s : State) : List Byte :=
  (List.range s.count).filterMap fun k => Memory.read s.slot (s.queueIndex k)

/-! Outputs and history -/

/-- `emit DELIVER(n, p)` (R11). -/
def deliver (n : Nat) (p : List Byte) (s : State) : State := s.setDeliveries (s.deliveries ++ [{ n := n, payload := p }])

/-- `emit TX(g)` (R11). -/
def transmit (g : List Byte) (s : State) : State := s.setTx (s.tx ++ [g])

/-- Adds one outcome to the event history (R11, R124). -/
def State.record (s : State) (o : OpOutcome) : State := s.setOutcomes (s.outcomes ++ [o])

/-! Taking a transport error (60_exceptions.md R119 to R131) -/

/-- The errors that arise inside the block (R119). -/
inductive TransportError where
  | queueOverflow
  | lengthViolation
  | checksumMismatch
  | emitSkipped
deriving DecidableEq, Repr

/-- The source's ordinal of an error; the emitter's skip has none (R119). -/
def TransportError.code : TransportError → Option Nat
  | .queueOverflow => some 1
  | .lengthViolation => some 2
  | .checksumMismatch => some 3
  | .emitSkipped => none

/-- Taking an error (R130): resynchronisation to `Idle` for a frame error, no change at all for the other two. No state is
saved, no mode changes, nothing is recorded (R124), and there is no return operation (R131). -/
def takeError (e : TransportError) (s : State) : State :=
  match e with
  | .queueOverflow => s
  | .lengthViolation => s.setPstate .idle
  | .checksumMismatch => s.setPstate .idle
  | .emitSkipped => s

/-- The error an outcome raises, if any (R11: `raise X` means `outcome X`; R119). -/
def OpOutcome.error : OpOutcome → Option TransportError
  | .dropped _ => some .queueOverflow
  | .fed .lenBad => some .lengthViolation
  | .fed .csumBad => some .checksumMismatch
  | .polled (some .lenBad) => some .lengthViolation
  | .polled (some .csumBad) => some .checksumMismatch
  | .skipped => some .emitSkipped
  | _ => none

/-! The queue's two operations (40_bytequeue.md) -/

/-- ENQ's pseudocode (R70). -/
def enqueue (b : Byte) (s : State) : Except Fault (OpOutcome × State) :=
  if s.full then .ok (.dropped b, takeError .queueOverflow s)
  else
    match writeSlot s.head b s with
    | .ok s1 => .ok (.stored b, s1.setHead (advance s.cfg.n s.head))
    | .error f => .error f

/-- DEQ's pseudocode (R72). -/
def dequeue (s : State) : Except Fault (Option Byte × State) :=
  if s.empty then .ok (none, s)
  else
    match readSlot s.tail s with
    | .ok b => .ok (some b, s.setTail (advance s.cfg.n s.tail))
    | .error f => .error f

/-- An operation's end: its outcome is recorded. -/
def finish (r : Except Fault (OpOutcome × State)) : Host.Outcome State Fault Refusal :=
  match r with
  | .ok (o, s) => .next (s.record o)
  | .error f => .fault f

end Sys2Proof.Machine
end

