-- ==== Sys2Proof/Machine/Operands.lean ====
section
/-! DEFINITION. The operand forms: a byte given to the parser (41_frameparser.md R79 to R85), a response given to the emitter
(42_frameemitter.md R95), a frame given to the queue (30_encoding.md R66). -/

namespace Sys2Proof.Machine

/-! A byte operand, by its class -/

/-- `FEED.IDLE.SOF` (R79). -/
def onIdleSof (s : State) : Except Fault State := .ok (s.setPstate .lengthExpected)

/-- `FEED.IDLE.SKIP` (R80). -/
def onIdleSkip (s : State) : Except Fault State := .ok s

/-- `FEED.LEN.OK` (R81). -/
def onLenOk (b : Byte) (s : State) : Except Fault State :=
  .ok ((((s.setDeclaredLength b).setAcc 0).setWriteIndex 0).setPstate .payloadAccumulating)

/-- `FEED.LEN.BAD` (R82). -/
def onLenBad (s : State) : Except Fault State := .ok (takeError .lengthViolation s)

/-- `FEED.PAYLOAD` (R83): the new `writeIndex` is compared with `declaredLength`. -/
def onPayload (b : Byte) (s : State) : Except Fault State :=
  match writePayload s.writeIndex b s with
  | .ok s1 =>
    let s2 := (s1.setAcc (addByte s.acc b)).setWriteIndex (s.writeIndex + 1)
    .ok (if s.writeIndex + 1 = s.declaredLength.toNat then s2.setPstate .checksumExpected else s2)
  | .error f => .error f

/-- `FEED.CSUM.BAD` (R84). -/
def onCsumBad (s : State) : Except Fault State := .ok (takeError .checksumMismatch s)

/-- `FEED.CSUM.OK` (R85): the terminator is written, then the payload read and delivered. -/
def onCsumOk (s : State) : Except Fault State :=
  match writePayload s.declaredLength.toNat term s with
  | .ok s1 =>
    match readPayload s.declaredLength.toNat s1 with
    | .ok p => .ok ((deliver s.declaredLength.toNat p s1).setPstate .idle)
    | .error f => .error f
  | .error f => .error f

/-- The effect of a byte of a given class. -/
def applyClass (k : ByteClass) (b : Byte) (s : State) : Except Fault State :=
  match k with
  | .idleSof => onIdleSof s
  | .idleSkip => onIdleSkip s
  | .lenOk => onLenOk b s
  | .lenBad => onLenBad s
  | .payload => onPayload b s
  | .csumBad => onCsumBad s
  | .csumOk => onCsumOk s

/-- FEED's pseudocode (R78): the class is chosen by `pstate` and `acc` as they stand before. -/
def feedByte (b : Byte) (s : State) : Except Fault (ByteClass × State) :=
  match applyClass (classify s.ctx b) b s with
  | .ok s1 => .ok (classify s.ctx b, s1)
  | .error f => .error f

/-- The end of a byte-class row: its effect, where the state and byte select row `i` (R58); refused elsewhere. -/
def finishClass (i : Instr) (b : Byte) (k : ByteClass) (r : Except Fault State) (s : State) : Host.Outcome State Fault Refusal :=
  if decodeByte s.ctx b = i then
    match r with
    | .ok s1 => .next (s1.record (.fed k))
    | .error f => .fault f
  else .refused .classNotSelected

/-- POLL's pseudocode (R88) once it is enabled: DEQ, then FEED of the byte; `busy` is set when the class is `FEED.CSUM.OK`. -/
def pollBody (s : State) : Except Fault (OpOutcome × State) :=
  match dequeue s with
  | .error f => .error f
  | .ok (none, s1) => .ok (.polled none, s1)
  | .ok (some b, s1) =>
    match feedByte b s1 with
    | .error f => .error f
    | .ok (k, s2) => .ok (.polled (some k), if k = .csumOk then s2.setBusy true else s2)

/-! A response operand -/

/-- The four byte groups of R95, in order (R97). -/
def frameGroups (resp : List Byte) : List (List Byte) := [[sof], [BitVec.ofNat 8 resp.length], resp, [cksum resp]]

/-- SEND's pseudocode (R95): four groups, or nothing (R96). -/
def sendBody (resp : List Byte) (s : State) : OpOutcome × State :=
  if lengthInRange s.cfg.maxPayload resp.length then
    (.sent, transmit [cksum resp] (transmit resp (transmit [BitVec.ofNat 8 resp.length] (transmit [sof] s))))
  else (.skipped, takeError .emitSkipped s)

/-! A frame operand -/

/-- `RX [b0, ..., bk]` of R66: one ENQ per byte, in order. -/
def enqueueAll : List Byte → State → Host.Outcome State Fault Refusal
  | [], s => .next s
  | b :: bs, s =>
    match finish (enqueue b s) with
    | .next t => enqueueAll bs t
    | .fault f => .fault f
    | .refused r => .refused r

end Sys2Proof.Machine
end

