-- ==== Sys2Proof/Machine/Consumer.lean ====
section
/-! DEFINITION. The meanings of the consumer agent's operations POLL and RESPOND (41_frameparser.md R88 to R90) and of SEND (42_frameemitter.md R95),
and the pseudo-operation DRAIN (30_encoding.md R66). -/

namespace Sys2Proof.Machine

/-- `POLL` (R88), enabled only at `busy == 0`. -/
def execPoll (s : State) : Host.Outcome State Fault Refusal :=
  if s.busy then .refused .pollNotEnabled else finish (pollBody s)

/-- `RESPOND resp` (R89), enabled only at `busy == 1`: SEND, then `busy <- 0`. -/
def execRespond (resp : List Byte) (s : State) : Host.Outcome State Fault Refusal :=
  if s.busy then finish (.ok ((sendBody resp s).1, (sendBody resp s).2.setBusy false)) else .refused .respondNotEnabled

/-- `SEND resp` (R95). -/
def execSend (resp : List Byte) (s : State) : Host.Outcome State Fault Refusal := finish (.ok (sendBody resp s))

/-- A POLL with this outcome and `busy` after it ends a DRAIN: it "returns `None` or sets `busy = 1`" (R66). -/
def endsDrain (o : OpOutcome) (busy : Bool) : Bool := decide (o = .polled none) || busy

/-- `POLL` repeated until one ends the DRAIN, at most `fuel` times. -/
def drainWithin : Nat → State → Host.Outcome State Fault Refusal
  | 0, s => .next s
  | fuel + 1, s =>
    if s.busy then .refused .pollNotEnabled
    else
      match pollBody s with
      | .error f => .fault f
      | .ok (o, t) => if endsDrain o t.busy then .next (t.record o) else drainWithin fuel (t.record o)

/-- `DRAIN` (R66): a POLL for each byte held and one that returns `None` always suffice. At `busy == 1` its first POLL is not
enabled (R88). -/
def drain (s : State) : Host.Outcome State Fault Refusal := drainWithin (s.count + 1) s

end Sys2Proof.Machine
end

