-- ==== Sys2Proof/Machine/Parser.lean ====
section
/-! DEFINITION. The meanings of FEED (41_frameparser.md R78) and of the byte-class rows (R79 to R85). -/

namespace Sys2Proof.Machine

/-- `FEED b` (R78). -/
def execFeed (b : Byte) (s : State) : Host.Outcome State Fault Refusal :=
  match feedByte b s with
  | .ok (k, s1) => .next (s1.record (.fed k))
  | .error f => .fault f

/-- `FEED.IDLE.SOF` (R79). -/
def execFeedIdleSof (s : State) : Host.Outcome State Fault Refusal :=
  finishClass .feedIdleSof sof .idleSof (onIdleSof s) s

/-- `FEED.IDLE.SKIP` (R80). -/
def execFeedIdleSkip (b : Byte) (s : State) : Host.Outcome State Fault Refusal :=
  finishClass (.feedIdleSkip b) b .idleSkip (onIdleSkip s) s

/-- `FEED.LEN.BAD`, zero length (R82). -/
def execFeedLenBadZero (s : State) : Host.Outcome State Fault Refusal :=
  finishClass .feedLenBadZero 0 .lenBad (onLenBad s) s

/-- `FEED.LEN.BAD`, length at or over the ceiling (R82). -/
def execFeedLenBadOver (b : Byte) (s : State) : Host.Outcome State Fault Refusal :=
  finishClass (.feedLenBadOver b) b .lenBad (onLenBad s) s

/-- `FEED.LEN.OK` (R81). -/
def execFeedLenOk (b : Byte) (s : State) : Host.Outcome State Fault Refusal :=
  finishClass (.feedLenOk b) b .lenOk (onLenOk b s) s

/-- `FEED.PAYLOAD` (R83). -/
def execFeedPayload (b : Byte) (s : State) : Host.Outcome State Fault Refusal :=
  finishClass (.feedPayload b) b .payload (onPayload b s) s

/-- `FEED.CSUM.OK` (R85). -/
def execFeedCsumOk (b : Byte) (s : State) : Host.Outcome State Fault Refusal :=
  finishClass (.feedCsumOk b) b .csumOk (onCsumOk s) s

/-- `FEED.CSUM.BAD` (R84). -/
def execFeedCsumBad (b : Byte) (s : State) : Host.Outcome State Fault Refusal :=
  finishClass (.feedCsumBad b) b .csumBad (onCsumBad s) s

end Sys2Proof.Machine
end

