-- ==== Sys2Proof/Machine/Queue.lean ====
section
/-! DEFINITION. The meanings of ENQ and DEQ (40_bytequeue.md) and of FRAME (30_encoding.md R53, R66). -/

namespace Sys2Proof.Machine

/-- `ENQ b` (R70). -/
def execEnq (b : Byte) (s : State) : Host.Outcome State Fault Refusal := finish (enqueue b s)

/-- `DEQ` (R72). -/
def execDeq (s : State) : Host.Outcome State Fault Refusal :=
  match dequeue s with
  | .ok (r, s1) => .next (s1.record (.dequeued r))
  | .error f => .fault f

/-- `FRAME`: the arrival of `frame(p)`, the pseudo-operation `RX FRAME` (R66; log 12). A payload outside `0 < |p| < MAX_PAYLOAD`
has no frame (R56). -/
def execFrame (p : List Byte) (s : State) : Host.Outcome State Fault Refusal :=
  if lengthInRange s.cfg.maxPayload p.length then enqueueAll (frameOf p) s else .refused .frameUndefined

end Sys2Proof.Machine
end

