-- ==== Sys2Proof/Machine/System.lean ====
section
/-! DEFINITION. The meaning of RESET (70_reset_and_hazards.md R143). -/

namespace Sys2Proof.Machine

/-- `RESET` (R143): every element as R34 gives it, the outputs empty (R34; log 4); the parameters stay (R145) and so does the
environment's schedule, which is not the block's. -/
def execReset (s : State) : Host.Outcome State Fault Refusal := .next ((State.resetWith s.cfg).setPending s.pending)

end Sys2Proof.Machine
end

