-- ==== Sys2Proof/Machine/Dispatch.lean ====
section
/-! DEFINITION. One arm per constructor of Instr. -/

namespace Sys2Proof.Machine

def exec (i : Instr) (s : State) : Host.Outcome State Fault Refusal :=
  match i with
  | .enq b => Sys2Proof.Machine.execEnq b s
  | .deq => Sys2Proof.Machine.execDeq s
  | .feed b => Sys2Proof.Machine.execFeed b s
  | .poll => Sys2Proof.Machine.execPoll s
  | .respond resp => Sys2Proof.Machine.execRespond resp s
  | .send resp => Sys2Proof.Machine.execSend resp s
  | .reset => Sys2Proof.Machine.execReset s
  | .feedIdleSof => Sys2Proof.Machine.execFeedIdleSof s
  | .feedIdleSkip b => Sys2Proof.Machine.execFeedIdleSkip b s
  | .feedLenBadZero => Sys2Proof.Machine.execFeedLenBadZero s
  | .feedLenBadOver b => Sys2Proof.Machine.execFeedLenBadOver b s
  | .feedLenOk b => Sys2Proof.Machine.execFeedLenOk b s
  | .feedPayload b => Sys2Proof.Machine.execFeedPayload b s
  | .feedCsumOk b => Sys2Proof.Machine.execFeedCsumOk b s
  | .feedCsumBad b => Sys2Proof.Machine.execFeedCsumBad b s
  | .frame p => Sys2Proof.Machine.execFrame p s

end Sys2Proof.Machine
end

