-- ==== Sys2Proof/Machine/Step.lean ====
section
/-! DEFINITION. One step of the machine: the next event of the schedule, decoded and executed; with no event left, the consumer's own turn. -/

namespace Sys2Proof.Machine

/-- The consumer's turn with no event pending (R90, log 8): POLL at `busy == 0`; at `busy == 1` the block waits for the
response and nothing changes (R156, U17: a hang, not a final state). -/
def idleTurn (s : State) : Host.Outcome State Fault Refusal := if s.busy then .next s else exec .poll s

/-- One step. Parameters outside R8's constraints are refused (D5). -/
def step (s : State) : Host.Outcome State Fault Refusal :=
  if s.cfg.ok then
    match s.pending with
    | [] => idleTurn s
    | e :: rest =>
      match decode s.ctx e with
      | .instr i => exec i (s.setPending rest)
      | .reject r => .refused (.undecodable r)
  else .refused .parameterOutOfRange

/-- `s` with the event of a table word at the front of the schedule and, for a byte class, the parser in the state that the
word's row names (R19: `pstate` is the block's analogue of a program counter). Log 9. -/
def State.withFetchWord (s : State) (nbits w : Nat) : State :=
  let s1 := s.setPending (tableEvent nbits w :: s.pending)
  if nbits = 0 then s1 else if nbits ≤ 8 then s1.setPstate (tableState w) else s1

end Sys2Proof.Machine
end

