-- ==== Sys2Proof/Machine/Dispatcher.lean ====
section
/-! DEFINITION. The CommandDispatcher collaborator's function `Handle` (43_dispatcher_collaborator.md R103 to R113). It binds the
environment, not the block (R116): no operation of the block calls it. -/

namespace Sys2Proof.Machine.Dispatcher

/-- The characters trimmed (R105). PRESUMED: the source lists none; the usual set of G4 (log 20). -/
def isSpace (b : Byte) : Bool := decide (b = 0x20) || decide (b = 0x09) || decide (b = 0x0A) || decide (b = 0x0D)

def trimLeft : List Byte → List Byte
  | [] => []
  | b :: bs => if isSpace b then trimLeft bs else b :: bs

/-- Step 1, trim at both ends (R105). -/
def trim (s : List Byte) : List Byte := (trimLeft (trimLeft s).reverse).reverse

/-- The terminator-bounded string of a payload (R104): up to, not including, the first `TERM`. -/
def untilTerm (p : List Byte) : List Byte := p.takeWhile fun b => decide (b ≠ term)

/-- What follows a prefix, if the string begins with it. -/
def afterPrefix : List Byte → List Byte → Option (List Byte)
  | [], s => some s
  | _ :: _, [] => none
  | p :: ps, b :: bs => if p = b then afterPrefix ps bs else none

/-- The separator `':'` of R108. -/
def colon : Byte := 0x3A

/-- Splits at the first `':'`. The source does not say which one (R108, N14); either gives the same answer (log 21). -/
def splitFirst : List Byte → Option (List Byte × List Byte)
  | [] => none
  | b :: bs =>
    if b = colon then some ([], bs)
    else
      match splitFirst bs with
      | some (l, r) => some (b :: l, r)
      | none => none

/-- Splits at the last `':'`, for comparison (R108). -/
def splitLast : List Byte → Option (List Byte × List Byte)
  | [] => none
  | b :: bs =>
    match splitLast bs with
    | some (l, r) => some (b :: l, r)
    | none => if b = colon then some ([], bs) else none

def isDigit (b : Byte) : Bool := decide (0x30 ≤ b.toNat) && decide (b.toNat ≤ 0x39)

/-- `steps` a non-empty digit string and `dir` exactly `"0"` or `"1"` (R108). Neither is trimmed: R108's pseudocode tests the parts
of the split as they are, and the source does not say whether they are trimmed (N14). DESIGN CHOICE (log 27). -/
def validArgs (steps dir : List Byte) : Bool :=
  decide (steps ≠ []) && steps.all isDigit && (decide (dir = [0x30]) || decide (dir = [0x31]))

/-! The strings, in ASCII codes (G3). -/

/-- `ping` -/
def strPing : List Byte := [0x70, 0x69, 0x6E, 0x67]
/-- `led:` -/
def strLed : List Byte := [0x6C, 0x65, 0x64, 0x3A]
/-- `motor:` -/
def strMotor : List Byte := [0x6D, 0x6F, 0x74, 0x6F, 0x72, 0x3A]
/-- `on` -/
def strOn : List Byte := [0x6F, 0x6E]
/-- `off` -/
def strOff : List Byte := [0x6F, 0x66, 0x66]
/-- `ACK:pong` -/
def ackPong : List Byte := [0x41, 0x43, 0x4B, 0x3A, 0x70, 0x6F, 0x6E, 0x67]
/-- `LED:OK` -/
def ledOk : List Byte := [0x4C, 0x45, 0x44, 0x3A, 0x4F, 0x4B]
/-- `LED:ERR` -/
def ledErr : List Byte := [0x4C, 0x45, 0x44, 0x3A, 0x45, 0x52, 0x52]
/-- `MOTOR:OK` -/
def motorOk : List Byte := [0x4D, 0x4F, 0x54, 0x4F, 0x52, 0x3A, 0x4F, 0x4B]
/-- `MOTOR:ERR:FORMAT` -/
def motorFormat : List Byte :=
  [0x4D, 0x4F, 0x54, 0x4F, 0x52, 0x3A, 0x45, 0x52, 0x52, 0x3A, 0x46, 0x4F, 0x52, 0x4D, 0x41, 0x54]
/-- `MOTOR:ERR:BAD_ARGS` -/
def motorBadArgs : List Byte :=
  [0x4D, 0x4F, 0x54, 0x4F, 0x52, 0x3A, 0x45, 0x52, 0x52, 0x3A, 0x42, 0x41, 0x44, 0x5F, 0x41, 0x52, 0x47, 0x53]
/-- `UNKNOWN` -/
def unknown : List Byte := [0x55, 0x4E, 0x4B, 0x4E, 0x4F, 0x57, 0x4E]

/-- The dispatcher's answer: the response and, for `led:on` and `led:off`, the level the digital output is driven to (R107). -/
structure Reply where
  resp : List Byte
  drive : Option Bool
deriving DecidableEq, Repr

/-- The second form's answer to what follows `led:` (R107). -/
def ledReply (rest : List Byte) : Reply :=
  if trim rest = strOn then { resp := ledOk, drive := some true }
  else if trim rest = strOff then { resp := ledOk, drive := some false }
  else { resp := ledErr, drive := none }

/-- The third form's answer to a given split of what follows `motor:` (R108). The value of `steps` is not computed: a digit string of
any length is accepted, as in R108's pseudocode; the source gives the unsigned integer no width and does not say what an overflow
does (N14). DESIGN CHOICE (log 27). -/
def motorReply (split : Option (List Byte × List Byte)) : List Byte :=
  match split with
  | none => motorFormat
  | some (steps, dir) => if validArgs steps dir then motorOk else motorBadArgs

/-- The forms in priority order (R106 to R110). DESIGN CHOICE (log 29): a string is its single bytes, those above `0x7F` included;
"UTF-8-ish" is all the source says of them (R118). -/
def replyTo (cmd : List Byte) : Reply :=
  if cmd = strPing then { resp := ackPong, drive := none }
  else
    match afterPrefix strLed cmd with
    | some rest => ledReply rest
    | none =>
      match afterPrefix strMotor cmd with
      | some rest => { resp := motorReply (splitFirst rest), drive := none }
      | none => { resp := unknown, drive := none }

/-- `Handle` (R103): the answer to a payload. -/
def handle (p : List Byte) : Reply := replyTo (trim (untilTerm p))

/-- `Handle` with the `motor:` arguments split at the last `':'` instead, the other reading of R108 (log 21). -/
def handleLastSplit (p : List Byte) : Reply :=
  let cmd := trim (untilTerm p)
  match afterPrefix strMotor cmd with
  | some rest => { resp := motorReply (splitLast rest), drive := none }
  | none => replyTo cmd

end Sys2Proof.Machine.Dispatcher
end

