-- ==== Sys2Proof/Machine/Environment.lean ====
section
/-! DEFINITION. The block with its two collaborators around it: the serial receive source with its arming bit (60_exceptions.md R127)
and the dispatcher with the digital output (43_dispatcher_collaborator.md). What they hold is no state of the block (10_state.md R33). -/

namespace Sys2Proof.Machine

/-- The block and what its surroundings hold. -/
structure World where
  block : State
  /-- The receive notification is armed (R127). -/
  armed : Bool
  /-- The level of the digital output, high when true (R107). -/
  digitalOut : Bool
deriving DecidableEq, Repr

/-- Right after reset. DESIGN CHOICE: not yet armed, output low (log 22). -/
def World.initial (c : Config) : World := { block := State.resetWith c, armed := false, digitalOut := false }

/-- Carries the surroundings over an operation of the block. -/
def World.lift (w : World) (o : Host.Outcome State Fault Refusal) : Host.Outcome World Fault Refusal :=
  match o with
  | .next t => .next { w with block := t }
  | .fault f => .fault f
  | .refused r => .refused r

/-- A byte arrives on the wire: delivered as one ENQ while armed, which clears `armed` (R127); lost otherwise (U15).
DESIGN CHOICE (log 22): delivery and ENQ are one step and `rearm` comes after it, where R127 and N8 leave open whether the handler
re-arms before or after the ENQ. -/
def World.receive (b : Byte) (w : World) : Host.Outcome World Fault Refusal :=
  if w.armed then World.lift { w with armed := false } (exec (.enq b) w.block) else .next w

/-- The handler re-arms the notification, its duty after every byte (R127, R150); a step of its own, after the ENQ (log 22). -/
def World.rearm (w : World) : World := { w with armed := true }

/-- The string the dispatcher reads at the payload buffer: from index `i` up to the first `TERM` (R104), within `fuel` bytes. -/
def readString (m : Memory) (i : Nat) : Nat → Option (List Byte)
  | 0 => none
  | fuel + 1 =>
    match Memory.read m i with
    | none => none
    | some b =>
      if b = term then some []
      else
        match readString m (i + 1) fuel with
        | some bs => some (b :: bs)
        | none => none

/-- The dispatcher answers the delivered payload (R103, R117): it reads the string, and RESPOND takes its response; the
output is driven as the command says. At `busy == 0` there is nothing to answer and RESPOND is not enabled (R89). -/
def World.answer (w : World) : Host.Outcome World Fault Refusal :=
  if w.block.busy then
    match readString w.block.payloadBuffer 0 w.block.cfg.maxPayload with
    | none => .fault .payloadUnwritten
    | some str =>
      let r := Dispatcher.handle str
      World.lift { w with digitalOut := r.drive.getD w.digitalOut } (exec (.respond r.resp) w.block)
  else .refused .respondNotEnabled

end Sys2Proof.Machine
end

