-- ==== Sys2Proof/Machine/Execution.lean ====
section
/-! DEFINITION. Endless executions of the block, and what the spec assumes of the consumer and asks of the environment in them
(41_frameparser.md R90, 70_reset_and_hazards.md R156, R161). Nothing here changes what an operation does. -/

namespace Sys2Proof.Machine

/-- An endless execution: at each moment the block stands in a state, and up to the next moment one operation of an agent takes
effect (R43, R64) or none does. RX events may go on for ever or stop for ever (R161 (c)). -/
structure Execution where
  state : Nat → State
  op : Nat → Option Instr
  agents : ∀ k i, op k = some i → (encode i).port.ofAgent = true
  moves : ∀ k i, op k = some i → exec i (state k) = .next (state (k + 1))
  rests : ∀ k, op k = none → state (k + 1) = state k

/-- Weak fairness of the consumer (R90, R161 (a), D25): a POLL that stays enabled is eventually taken. -/
def Execution.consumerFair (e : Execution) : Prop :=
  ∀ k, (∀ j, k ≤ j → (e.state j).busy = false) → ∃ j, k ≤ j ∧ e.op j = some .poll

/-- At moment `k` the wait for a response ends: the environment responds, or it resets the block. -/
def Execution.waitEndsAt (e : Execution) (k : Nat) : Prop := e.op k = some .reset ∨ ∃ resp, e.op k = some (.respond resp)

/-- ENVIRONMENT OBLIGATION (R156): "The environment must answer every DELIVER". An execution that does not meet it is a hang. -/
def Execution.environmentAnswers (e : Execution) : Prop := ∀ k, (e.state k).busy = true → ∃ j, k ≤ j ∧ e.waitEndsAt j

/-- The operations of the first `n` moments, in order. -/
def Execution.opsBefore (e : Execution) (n : Nat) : List Instr := (List.range n).filterMap e.op

end Sys2Proof.Machine
end

