-- ==== Sys2Proof/Machine/Ports.lean ====
section
/-! DEFINITION. The signal-level binding of 10_state.md R32 (D21): what one rising edge of `clk` does, in operations, and what the output
ports show. It adds no behaviour to the operations. -/

namespace Sys2Proof.Machine

/-- `frame_valid` (R32). -/
def State.frameValid (s : State) : Bool := s.busy

/-- `frame_len` (R32). -/
def State.frameLen (s : State) : Byte := s.declaredLength

/-- `frame_rdata` at address `a` (R32): defined only while `frame_valid = 1` and `a <= frame_len`; elsewhere it has no value (log 19). -/
def State.frameRdata (s : State) (a : Nat) : Option Byte :=
  if s.busy && decide (a ≤ s.declaredLength.toNat) then Memory.read s.payloadBuffer a else none

/-- An ENQ and a consumer operation on one edge (20_memory.md R43): both read the state before the edge, and the writes of both are
applied; ENQ writes `slot` and `head` only. The history takes the ENQ's outcome first (log 17). -/
def sameEdge (b : Byte) (consumer : Instr) (s : State) : Host.Outcome State Fault Refusal :=
  match exec (.enq b) s with
  | .fault f => .fault f
  | .refused r => .refused r
  | .next p =>
    match exec consumer s with
    | .fault f => .fault f
    | .refused r => .refused r
    | .next c => .next (((c.setSlot p.slot).setHead p.head).setOutcomes (p.outcomes ++ c.outcomes.drop s.outcomes.length))

/-- The input ports at one edge, and the consumer's choice to take its POLL (R32: it "may perform one POLL at any edge"). -/
structure PortsIn where
  rst : Bool
  rxValid : Bool
  rxData : Byte
  poll : Bool
  respValid : Bool
  respData : Byte
  respLast : Bool
  txReady : Bool
deriving DecidableEq, Repr

/-- The block with what a realisation keeps at its ports: the response bytes taken so far, and how many transmit bytes the
collaborator has accepted. Log 18. -/
structure Harness where
  block : State
  respBytes : List Byte
  txTaken : Nat
deriving DecidableEq, Repr

/-- `tx_valid` and `tx_data` (R32): the next byte of the transmit output not yet accepted. -/
def Harness.txData (h : Harness) : Option Byte := h.block.tx.flatten[h.txTaken]?

/-- The response bytes taken at an edge, the one presented there included; a byte is taken only while a response is awaited.
DESIGN CHOICE (log 18): R32 gives `resp_valid = 0` with `resp_last = 1` as the zero-length response and does not speak of it after
bytes have been taken; there it ends the response with the bytes taken so far. -/
def Harness.collected (i : PortsIn) (h : Harness) : List Byte :=
  if h.block.busy && i.respValid then h.respBytes ++ [i.respData] else h.respBytes

/-- The consumer's operation at an edge with `rst = 0`, if it takes one: RESPOND at the edge that takes `resp_last`, or POLL. -/
def Harness.consumerOp (i : PortsIn) (h : Harness) : Option Instr :=
  if h.block.busy then (if i.respLast then some (.respond (h.collected i)) else none)
  else if i.poll then some .poll else none

/-- The operations of one edge with `rst = 0`, on the block. -/
def Harness.edgeOps (i : PortsIn) (h : Harness) : Host.Outcome State Fault Refusal :=
  match i.rxValid, h.consumerOp i with
  | true, some c => sameEdge i.rxData c h.block
  | true, none => exec (.enq i.rxData) h.block
  | false, some c => exec c h.block
  | false, none => .next h.block

/-- One rising edge (R32). With `rst = 1` it does RESET and nothing else (R143). -/
def Harness.edge (i : PortsIn) (h : Harness) : Host.Outcome Harness Fault Refusal :=
  if i.rst then
    match exec .reset h.block with
    | .next t => .next { block := t, respBytes := [], txTaken := 0 }
    | .fault f => .fault f
    | .refused r => .refused r
  else
    match h.edgeOps i with
    | .next t =>
      .next
        { block := t
          respBytes := if h.block.busy && i.respLast then [] else h.collected i
          txTaken := if i.txReady && h.txData.isSome then h.txTaken + 1 else h.txTaken }
    | .fault f => .fault f
    | .refused r => .refused r

end Sys2Proof.Machine
end

