-- ==== Sys2Proof/Safety.lean ====
section
/-! DEFINITION. What claims about runs are stated in: the invariants of 10_state.md R25, runs of operations, agents, quiescence. -/

namespace Sys2Proof.Machine

/-- Performs operations one after another, a trace of 30_encoding.md R65. -/
def runOps : List Instr → State → Host.Outcome State Fault Refusal
  | [], s => .next s
  | i :: is, s =>
    match exec i s with
    | .next t => runOps is t
    | .fault f => .fault f
    | .refused r => .refused r

/-- `FEEDS [b0, ..., bk]` (R66). -/
def feeds (bs : List Byte) : List Instr := bs.map Instr.feed

/-- `RX [b0, ..., bk]` (R66). -/
def rx (bs : List Byte) : List Instr := bs.map Instr.enq

/-- The two execution contexts and the environment (60_exceptions.md R135, R136). -/
inductive Agent where
  | producer
  | consumer
  | environment
deriving DecidableEq, Repr

/-- Whose operation it is (the "agent" field of opcode_table.json; FRAME is a run of ENQs, R66). -/
def agentOf : Instr → Agent
  | .enq _ => .producer
  | .frame _ => .producer
  | .reset => .environment
  | .deq => .consumer
  | .feed _ => .consumer
  | .poll => .consumer
  | .respond _ => .consumer
  | .send _ => .consumer
  | .feedIdleSof => .consumer
  | .feedIdleSkip _ => .consumer
  | .feedLenBadZero => .consumer
  | .feedLenBadOver _ => .consumer
  | .feedLenOk _ => .consumer
  | .feedPayload _ => .consumer
  | .feedCsumOk _ => .consumer
  | .feedCsumBad _ => .consumer

/-- FEED and the byte classes, the rows that are about one byte in front of the parser. -/
def isFeedRow : Instr → Bool
  | .feed _ => true
  | .feedIdleSof => true
  | .feedIdleSkip _ => true
  | .feedLenBadZero => true
  | .feedLenBadOver _ => true
  | .feedLenOk _ => true
  | .feedPayload _ => true
  | .feedCsumOk _ => true
  | .feedCsumBad _ => true
  | .enq _ => false
  | .deq => false
  | .poll => false
  | .respond _ => false
  | .send _ => false
  | .reset => false
  | .frame _ => false

/-- The byte a FEED or byte-class row is about. -/
def feedOperand : Instr → Byte
  | .feed b => b
  | .feedIdleSof => sof
  | .feedIdleSkip b => b
  | .feedLenBadZero => 0
  | .feedLenBadOver b => b
  | .feedLenOk b => b
  | .feedPayload b => b
  | .feedCsumOk b => b
  | .feedCsumBad b => b
  | .enq _ => 0
  | .deq => 0
  | .poll => 0
  | .respond _ => 0
  | .send _ => 0
  | .reset => 0
  | .frame _ => 0

/-- The seven byte-class rows' constructors (FEED itself left out). -/
def isClassRow (i : Instr) : Bool := isFeedRow i && decide (i ≠ .feed (feedOperand i))

/-! What an operation leaves alone, by part of the state. Two equal memories read alike at every index. -/

/-- The queue's elements (R14 to R16). -/
def KeepsQueue (s t : State) : Prop := t.slot = s.slot ∧ t.head = s.head ∧ t.tail = s.tail

/-- The parser's registers (R19 to R22). -/
def KeepsParserRegisters (s t : State) : Prop :=
  t.pstate = s.pstate ∧ t.declaredLength = s.declaredLength ∧ t.acc = s.acc ∧ t.writeIndex = s.writeIndex

/-- The outputs (R29, R31). -/
def KeepsOutputs (s t : State) : Prop := t.deliveries = s.deliveries ∧ t.tx = s.tx

/-- The parameters and the environment's schedule. -/
def KeepsSetting (s t : State) : Prop := t.cfg = s.cfg ∧ t.pending = s.pending

/-- The next step is one an agent takes (R64): nothing pending (the consumer's own turn), or an agent's event. -/
def State.drivenByAgent (s : State) : Bool :=
  match s.pending with
  | [] => true
  | e :: _ => e.port.ofAgent

/-- The queue part of R25 (I1, I2), with R18's "Every slot named in `contents` was written" and the memory's form. -/
structure QueueInv (s : State) : Prop where
  head_lt : s.head < s.cfg.n
  tail_lt : s.tail < s.cfg.n
  written : ∀ k, k < s.count → ∃ b, Memory.read s.slot (s.queueIndex k) = some b
  slot_wf : Memory.wf s.slot = true
  slot_range : ∀ a b, Memory.read s.slot a = some b → a < s.cfg.n

/-- The parser part of R25 (I3, I4), with the range of `writeIndex` (R22) and the memory's form. -/
structure ParserInv (s : State) : Prop where
  index_lt : s.writeIndex < s.cfg.maxPayload
  accumulating : s.pstate = .payloadAccumulating →
    0 < s.declaredLength.toNat ∧ s.declaredLength.toNat < s.cfg.maxPayload ∧ s.writeIndex < s.declaredLength.toNat ∧
      ∃ p, Memory.readRange s.payloadBuffer 0 s.writeIndex = some p ∧ s.acc = cksum p
  checksum : s.pstate = .checksumExpected →
    0 < s.declaredLength.toNat ∧ s.declaredLength.toNat < s.cfg.maxPayload ∧ s.writeIndex = s.declaredLength.toNat ∧
      ∃ p, Memory.readRange s.payloadBuffer 0 s.declaredLength.toNat = some p ∧ s.acc = cksum p
  buffer_wf : Memory.wf s.payloadBuffer = true
  buffer_range : ∀ a b, Memory.read s.payloadBuffer a = some b → a < s.cfg.maxPayload

/-- I5 of R25, with R29's "the same bytes stand in `payloadBuffer[0..n-1]` followed by `TERM` at index `n`". -/
def BusyInv (s : State) : Prop :=
  s.busy = true →
    s.pstate = .idle ∧ 0 < s.declaredLength.toNat ∧ s.declaredLength.toNat < s.cfg.maxPayload ∧
      Memory.read s.payloadBuffer s.declaredLength.toNat = some term ∧
      ∃ p, s.deliveries.getLast? = some { n := s.declaredLength.toNat, payload := p } ∧
        Memory.readRange s.payloadBuffer 0 s.declaredLength.toNat = some p

/-- Every DELIVER event carries a payload of its length, `1 <= n <= MAX_PAYLOAD - 1` (R29). -/
def DeliveryInv (s : State) : Prop :=
  ∀ d, d ∈ s.deliveries → d.payload.length = d.n ∧ 0 < d.n ∧ d.n < s.cfg.maxPayload

/-- The transmit output is a sequence of whole frames, four groups each (42_frameemitter.md R97). -/
def TxInv (s : State) : Prop :=
  ∃ ps : List (List Byte), (∀ p, p ∈ ps → 0 < p.length ∧ p.length < s.cfg.maxPayload) ∧ s.tx = ps.flatMap frameGroups

/-- The invariants every operation keeps, in any trace. -/
structure BlockInv (s : State) : Prop where
  params : s.cfg.ok
  queue : QueueInv s
  parser : ParserInv s
  delivery : DeliveryInv s
  tx : TxInv s

/-- The state with its history of outcomes left out, for claims about the block alone. -/
def State.withoutOutcomes (s : State) : State := s.setOutcomes []

/-- Quiescence (70_reset_and_hazards.md R162). -/
def State.quiescent (s : State) : Bool := s.empty && !s.busy

/-- The bytes the ENQs of a history stored, in order. -/
def storedBytes : List OpOutcome → List Byte
  | [] => []
  | .stored b :: os => b :: storedBytes os
  | .dropped _ :: os => storedBytes os
  | .dequeued _ :: os => storedBytes os
  | .fed _ :: os => storedBytes os
  | .polled _ :: os => storedBytes os
  | .sent :: os => storedBytes os
  | .skipped :: os => storedBytes os

/-- The bytes the DEQs of a history returned, in order. -/
def takenBytes : List OpOutcome → List Byte
  | [] => []
  | .dequeued (some b) :: os => b :: takenBytes os
  | .dequeued none :: os => takenBytes os
  | .stored _ :: os => takenBytes os
  | .dropped _ :: os => takenBytes os
  | .fed _ :: os => takenBytes os
  | .polled _ :: os => takenBytes os
  | .sent :: os => takenBytes os
  | .skipped :: os => takenBytes os

/-- How many bytes the POLLs of a history dequeued. -/
def polledBytes : List OpOutcome → Nat
  | [] => 0
  | .polled (some _) :: os => polledBytes os + 1
  | .polled none :: os => polledBytes os
  | .stored _ :: os => polledBytes os
  | .dropped _ :: os => polledBytes os
  | .dequeued _ :: os => polledBytes os
  | .fed _ :: os => polledBytes os
  | .sent :: os => polledBytes os
  | .skipped :: os => polledBytes os

end Sys2Proof.Machine
end

