-- ==== Sys2Proof/Certificates/Slice0/Obligations.lean ====
section
/-! DEFINITION. The statements for the provers. Where a clause rests on a choice of the model or a decision of the spec, the docstring names it. -/

open Sys2Proof Sys2Proof.Machine

/-! Reset and parameters -/

/-- RESET from any state (R143): the elements as R34 gives them (cursors, scalars and memories there are the spec's decision D3),
outputs empty (R34; log 4), parameters kept (R145), the environment's schedule kept (log 7). Afterwards DEQ finds nothing and
RESPOND is not enabled. -/
def Obligations.ResetFromAnyState : Prop :=
  ∀ s : State, ∃ t : State, exec .reset s = .next t ∧
    t.head = 0 ∧ t.tail = 0 ∧ t.pstate = .idle ∧ t.declaredLength = 0 ∧ t.acc = 0 ∧ t.writeIndex = 0 ∧ t.busy = false ∧
    (∀ a, Memory.read t.slot a = none) ∧ (∀ a, Memory.read t.payloadBuffer a = none) ∧
    t.deliveries = [] ∧ t.tx = [] ∧ KeepsSetting s t ∧
    exec .deq t = .next { t with outcomes := t.outcomes ++ [.dequeued none] } ∧
    ∀ resp, exec (.respond resp) t = .refused .respondNotEnabled

/-- The invariants hold right after reset at every admitted `N` and `MAX_PAYLOAD` (R25, R144), and so at `State.reset`. -/
def Obligations.ResetMeetsInvariants : Prop :=
  (∀ c : Config, c.ok → BlockInv (State.resetWith c) ∧ BusyInv (State.resetWith c)) ∧ BlockInv State.reset ∧ BusyInv State.reset

/-- `N` and `MAX_PAYLOAD` never change (R145): no operation and no step changes them. (They stand in State: log 1.) -/
def Obligations.ParametersNeverChange : Prop :=
  (∀ (i : Instr) (s t : State), exec i s = .next t → t.cfg = s.cfg) ∧ (∀ s t : State, step s = .next t → t.cfg = s.cfg)

/-! ByteQueue -/

/-- The computed conditions of R17 in the spec's own arithmetic, and that `empty` and `full` are never both true for `N >= 2`. -/
def Obligations.EmptyFullAndCount : Prop :=
  ∀ s : State, 2 ≤ s.cfg.n → s.head < s.cfg.n → s.tail < s.cfg.n →
    (s.empty = true ↔ s.head = s.tail) ∧ (s.full = true ↔ (s.head + 1) % s.cfg.n = s.tail) ∧
    s.count = (s.head + s.cfg.n - s.tail) % s.cfg.n ∧ s.count ≤ s.cfg.n - 1 ∧ ¬ (s.empty = true ∧ s.full = true)

/-- ENQ (R70): dropped with nothing written (QueueOverflow) when `(head + 1) mod N == tail`, else the byte in `slot[head]` and `head`
advanced; it is the producer's, completes in every state whose `head` is a slot index, and its outcome shows at no output port. -/
def Obligations.EnqueueStoresOrDrops : Prop :=
  ∀ (b : Byte) (s : State), s.head < s.cfg.n →
    ((s.head + 1) % s.cfg.n = s.tail →
      exec (.enq b) s = .next { s with outcomes := s.outcomes ++ [.dropped b] } ∧
      (OpOutcome.dropped b).error = some .queueOverflow) ∧
    ((s.head + 1) % s.cfg.n ≠ s.tail →
      exec (.enq b) s = .next { s with
        slot := Memory.write s.slot s.head b
        head := (s.head + 1) % s.cfg.n
        outcomes := s.outcomes ++ [.stored b] }) ∧
    agentOf (.enq b) = .producer ∧
    ∀ t : State, exec (.enq b) s = .next t →
      t.frameValid = s.frameValid ∧ t.frameLen = s.frameLen ∧ (∀ a, t.frameRdata a = s.frameRdata a) ∧ t.tx = s.tx

/-- ENQ's frame: one slot, `slot[head]`, and `head`, and neither when the byte is dropped; every other byte of both memories, every
other register and the outputs are unchanged (R70, R71, R135). That a dropped byte writes no slot is D20. -/
def Obligations.EnqueueFrame : Prop :=
  ∀ (b : Byte) (s t : State), exec (.enq b) s = .next t →
    (∀ a, a ≠ s.head → Memory.read t.slot a = Memory.read s.slot a) ∧
    (s.full = true → t.slot = s.slot ∧ t.head = s.head) ∧
    (s.full = false → Memory.read t.slot s.head = some b) ∧
    t.tail = s.tail ∧ t.payloadBuffer = s.payloadBuffer ∧ t.busy = s.busy ∧
    KeepsParserRegisters s t ∧ KeepsOutputs s t ∧ KeepsSetting s t

/-- DEQ (R72): `None` with nothing written and no error on an empty queue, else the byte at `tail` and `tail` advanced, and nothing
else written; it is the consumer's. -/
def Obligations.DequeueTakesOldest : Prop :=
  ∀ s : State, s.tail < s.cfg.n →
    (s.head = s.tail → exec .deq s = .next { s with outcomes := s.outcomes ++ [.dequeued none] }) ∧
    (∀ b, s.head ≠ s.tail → Memory.read s.slot s.tail = some b →
      exec .deq s = .next { s with
        tail := (s.tail + 1) % s.cfg.n
        outcomes := s.outcomes ++ [.dequeued (some b)] }) ∧
    agentOf .deq = .consumer ∧ (OpOutcome.dequeued none).error = none

/-- The queue's abstract value (R18): ENQ appends while fewer than `N - 1` bytes are held and otherwise changes nothing; DEQ removes
and returns the oldest byte, or returns nothing from an empty queue. -/
def Obligations.QueueIsBoundedSequence : Prop :=
  ∀ s : State, s.cfg.ok → QueueInv s →
    s.contents.length = s.count ∧
    (∀ (b : Byte) (t : State), exec (.enq b) s = .next t → QueueInv t ∧
      t.contents = if s.contents.length < s.cfg.n - 1 then s.contents ++ [b] else s.contents) ∧
    (∀ t : State, exec .deq s = .next t → QueueInv t ∧
      t.contents = s.contents.tail ∧ t.outcomes = s.outcomes ++ [.dequeued s.contents.head?])

/-- First in, first out (R74): any trace of ENQs and DEQs from reset runs to the end, and the bytes the DEQs return are a prefix of
the bytes the ENQs stored, in the same order. -/
def Obligations.DequeuedBytesAreAPrefixOfStored : Prop :=
  ∀ (c : Config) (ops : List Instr), c.ok → (∀ i, i ∈ ops → i = .deq ∨ ∃ b, i = .enq b) →
    ∃ t, runOps ops (State.resetWith c) = .next t ∧ takenBytes t.outcomes <+: storedBytes t.outcomes

/-- Capacity (R75): from an empty queue, of any bytes received with no DEQ between them the first `N - 1` are stored and every later
one dropped; as many DEQs as were stored return them in order, and the next returns `None`. -/
def Obligations.FillAndDrain : Prop :=
  ∀ (s : State) (bs : List Byte), s.cfg.ok → QueueInv s → s.head = s.tail →
    let kept := bs.take (s.cfg.n - 1)
    ∃ t, runOps (rx bs ++ List.replicate (kept.length + 1) .deq) s = .next t ∧
      t.outcomes = s.outcomes ++ kept.map OpOutcome.stored ++ (bs.drop (s.cfg.n - 1)).map OpOutcome.dropped ++
        kept.map (fun b => OpOutcome.dequeued (some b)) ++ [OpOutcome.dequeued none]

/-! The byte classes -/

/-- `FEED.IDLE.SOF` (R79): in `Idle` the start marker moves the parser to `LengthExpected` and writes nothing else. -/
def Obligations.StartMarkerOpensFrame : Prop :=
  ∀ s : State, s.pstate = .idle →
    let t := { s with pstate := .lengthExpected, outcomes := s.outcomes ++ [.fed .idleSof] }
    exec (.feed 0xAA) s = .next t ∧ exec .feedIdleSof s = .next t

/-- `FEED.IDLE.SKIP` (R80): any other byte in `Idle` writes no state and raises no error. -/
def Obligations.OtherBytesIgnoredInIdle : Prop :=
  ∀ (b : Byte) (s : State), s.pstate = .idle → b ≠ 0xAA →
    let t := { s with outcomes := s.outcomes ++ [.fed .idleSkip] }
    exec (.feed b) s = .next t ∧ exec (.feedIdleSkip b) s = .next t ∧ (OpOutcome.fed .idleSkip).error = none

/-- `FEED.LEN.OK` (R81; that the buffer is not cleared is decision D8): the length is latched, `acc` and `writeIndex` cleared, payload
accumulation begins. -/
def Obligations.ValidLengthStartsPayload : Prop :=
  ∀ (b : Byte) (s : State), s.pstate = .lengthExpected → 0 < b.toNat → b.toNat < s.cfg.maxPayload →
    let t := { s with
      declaredLength := b
      acc := 0
      writeIndex := 0
      pstate := .payloadAccumulating
      outcomes := s.outcomes ++ [.fed .lenOk] }
    exec (.feed b) s = .next t ∧ exec (.feedLenOk b) s = .next t

/-- `FEED.LEN.BAD` (R82): a zero length, and a length of `MAX_PAYLOAD` or more, returns the parser to `Idle` and writes nothing else,
`0xAA` included where it is no valid length; then the parser is in `Idle` for the next byte. At `MAX_PAYLOAD = 256` only zero is
invalid. The two rows of the table are the two cases. -/
def Obligations.InvalidLengthReturnsToIdle : Prop :=
  (∀ (b : Byte) (s : State), s.pstate = .lengthExpected → b = 0 ∨ s.cfg.maxPayload ≤ b.toNat →
    let t := { s with pstate := .idle, outcomes := s.outcomes ++ [.fed .lenBad] }
    exec (.feed b) s = .next t ∧
    (b = 0 → exec .feedLenBadZero s = .next t) ∧
    (b ≠ 0 → exec (.feedLenBadOver b) s = .next t) ∧
    (OpOutcome.fed .lenBad).error = some .lengthViolation) ∧
  (∀ s : State, s.pstate = .lengthExpected → s.cfg.maxPayload ≤ 170 →
    ∃ t, exec (.feed 0xAA) s = .next t ∧ t.pstate = .idle ∧
      exec (.feed 0x04) t = .next { t with outcomes := t.outcomes ++ [.fed .idleSkip] }) ∧
  (∀ (b : Byte) (s : State), s.pstate = .lengthExpected → s.cfg.maxPayload = 256 → b ≠ 0 →
    ∃ t, exec (.feed b) s = .next t ∧ t.pstate = .payloadAccumulating)

/-- `FEED.PAYLOAD` (R83): the byte is stored at `writeIndex`, added to `acc` modulo 256 and counted; when the new count is the
declared length the checksum is expected. Every byte value is treated alike. Under the invariants the index written is below
`declaredLength` and at most `MAX_PAYLOAD - 2`. -/
def Obligations.PayloadByteStoredAddedCounted : Prop :=
  (∀ (b : Byte) (s : State), s.pstate = .payloadAccumulating → s.writeIndex < s.cfg.maxPayload →
    ∃ t, exec (.feed b) s = .next t ∧ exec (.feedPayload b) s = .next t ∧
      t.payloadBuffer = Memory.write s.payloadBuffer s.writeIndex b ∧
      t.acc.toNat = (s.acc.toNat + b.toNat) % 256 ∧
      t.writeIndex = s.writeIndex + 1 ∧
      t.pstate = (if s.writeIndex + 1 = s.declaredLength.toNat then .checksumExpected else .payloadAccumulating) ∧
      t.declaredLength = s.declaredLength ∧ t.busy = s.busy ∧ KeepsQueue s t ∧ KeepsOutputs s t ∧ KeepsSetting s t ∧
      t.outcomes = s.outcomes ++ [.fed .payload] ∧ (OpOutcome.fed .payload).error = none) ∧
  (∀ s : State, BlockInv s → s.pstate = .payloadAccumulating →
    s.writeIndex < s.declaredLength.toNat ∧ s.writeIndex ≤ s.cfg.maxPayload - 2)

/-- `FEED.CSUM.BAD` (R84): a byte other than `acc` returns the parser to `Idle` and writes nothing else, no terminator and no DELIVER,
whatever the byte. -/
def Obligations.WrongChecksumDiscardsFrame : Prop :=
  ∀ (b : Byte) (s : State), s.pstate = .checksumExpected → b ≠ s.acc →
    let t := { s with pstate := .idle, outcomes := s.outcomes ++ [.fed .csumBad] }
    exec (.feed b) s = .next t ∧ exec (.feedCsumBad b) s = .next t ∧
    (OpOutcome.fed .csumBad).error = some .checksumMismatch

/-- `FEED.CSUM.OK` (R85; the terminator's value and time are decisions D6 and D7): the terminator goes to index `declaredLength`, the
payload bytes before it are delivered with their length, the parser returns to `Idle`, and the other registers keep their values.
-/
def Obligations.MatchingChecksumDelivers : Prop :=
  ∀ (p : List Byte) (s : State), s.pstate = .checksumExpected → s.declaredLength.toNat < s.cfg.maxPayload →
    Memory.readRange s.payloadBuffer 0 s.declaredLength.toNat = some p →
    let t := { s with
      payloadBuffer := Memory.write s.payloadBuffer s.declaredLength.toNat 0x00
      deliveries := s.deliveries ++ [{ n := s.declaredLength.toNat, payload := p }]
      pstate := .idle
      outcomes := s.outcomes ++ [.fed .csumOk] }
    exec (.feed s.acc) s = .next t ∧ exec (.feedCsumOk s.acc) s = .next t ∧ p.length = s.declaredLength.toNat

/-- The transition table (R87), every transition of `pstate` under FEED and under each byte-class row, with the class that makes it
and all that is written (R81, R83, R85). There is no transition into `LengthExpected` but from `Idle`. That the terminator is `0x00`
and written on a match only, and that nothing clears the buffer and only a valid length sets the registers, are the spec's
decisions D6, D7 and D8 (log 26). -/
def Obligations.FeedTransitionTable : Prop :=
  ∀ (i : Instr) (s t : State), isFeedRow i = true → exec i s = .next t →
    (s.pstate = .idle →
      t = { s with
        pstate := if feedOperand i = 0xAA then .lengthExpected else .idle
        outcomes := t.outcomes }) ∧
    (s.pstate = .lengthExpected →
      t = if 0 < (feedOperand i).toNat ∧ (feedOperand i).toNat < s.cfg.maxPayload then
          { s with
            pstate := .payloadAccumulating
            declaredLength := feedOperand i
            acc := 0
            writeIndex := 0
            outcomes := t.outcomes }
        else { s with pstate := .idle, outcomes := t.outcomes }) ∧
    (s.pstate = .payloadAccumulating →
      t = { s with
        pstate := if s.writeIndex + 1 = s.declaredLength.toNat then .checksumExpected else .payloadAccumulating
        payloadBuffer := Memory.write s.payloadBuffer s.writeIndex (feedOperand i)
        acc := s.acc + feedOperand i
        writeIndex := s.writeIndex + 1
        outcomes := t.outcomes }) ∧
    (s.pstate = .checksumExpected →
      if feedOperand i = s.acc then
        ∃ p, Memory.readRange s.payloadBuffer 0 s.declaredLength.toNat = some p ∧
          t = { s with
            pstate := .idle
            payloadBuffer := Memory.write s.payloadBuffer s.declaredLength.toNat 0x00
            deliveries := s.deliveries ++ [{ n := s.declaredLength.toNat, payload := p }]
            outcomes := t.outcomes }
      else t = { s with pstate := .idle, outcomes := t.outcomes }) ∧
    (t.pstate = .lengthExpected → s.pstate = .idle) ∧
    t.outcomes = s.outcomes ++ [.fed (classify s.ctx (feedOperand i))]

/-- The frame of FEED and of the byte-class rows (R86, R87): the queue, `busy`, the transmit output, the parameters and the schedule
never change; the payload buffer changes at `writeIndex` for a payload byte and at `declaredLength` for a matching checksum byte
and nowhere else; `declaredLength`, `acc` and `writeIndex` change only where R81 and R83 say. -/
def Obligations.FeedFrame : Prop :=
  ∀ (i : Instr) (s t : State), isFeedRow i = true → exec i s = .next t →
    KeepsQueue s t ∧ t.busy = s.busy ∧ t.tx = s.tx ∧ KeepsSetting s t ∧
    (∀ a, ¬ (s.pstate = .payloadAccumulating ∧ a = s.writeIndex) →
      ¬ (s.pstate = .checksumExpected ∧ feedOperand i = s.acc ∧ a = s.declaredLength.toNat) →
      Memory.read t.payloadBuffer a = Memory.read s.payloadBuffer a) ∧
    (t.pstate ≠ .payloadAccumulating ∨ s.pstate ≠ .lengthExpected → t.declaredLength = s.declaredLength) ∧
    (s.pstate = .idle ∨ s.pstate = .checksumExpected → t.acc = s.acc ∧ t.writeIndex = s.writeIndex) ∧
    (s.pstate = .lengthExpected → t.pstate = .idle → t.acc = s.acc ∧ t.writeIndex = s.writeIndex) ∧
    (¬ (s.pstate = .checksumExpected ∧ feedOperand i = s.acc) → t.deliveries = s.deliveries)

/-- Every byte in every state falls in exactly one class (R58, R68): of the byte-class rows about byte `b`, exactly one meets its
row's conditions, and it is the one the decoder gives. -/
def Obligations.ExactlyOneClassApplies : Prop :=
  ∀ (s : State) (b : Byte),
    (∃! i : Instr, isClassRow i = true ∧ feedOperand i = b ∧ i.wf s.cfg = true ∧ i.selected s.ctx = true) ∧
    isClassRow (decodeByte s.ctx b) = true ∧ feedOperand (decodeByte s.ctx b) = b ∧
    (decodeByte s.ctx b).wf s.cfg = true ∧ (decodeByte s.ctx b).selected s.ctx = true

/-- A byte-class row does what FEED of its byte does, where the state and byte select it, and is refused elsewhere (R58, R78; the
refusal is the model's, log 11). -/
def Obligations.ClassRowIsFeedWhereSelected : Prop :=
  ∀ (i : Instr) (s : State), isClassRow i = true →
    exec i s = if decodeByte s.ctx (feedOperand i) = i then exec (.feed (feedOperand i)) s else .refused .classNotSelected

/-! Whole frames through the parser -/

/-- Acceptance (R91): from `Idle`, the bytes of `frame(p)` fed in order give the classes SOF, LEN.OK, PAYLOAD `|p|` times and CSUM.OK,
exactly one DELIVER `(|p|, p)`, and the end state the rule lists. (The terminator is D6, D7.) -/
def Obligations.WellFormedFrameIsDeliveredOnce : Prop :=
  ∀ (p : List Byte) (s : State), s.cfg.ok → s.pstate = .idle → 0 < p.length → p.length < s.cfg.maxPayload →
    ∃ t, runOps (feeds (frameOf p)) s = .next t ∧
      t.outcomes = s.outcomes ++ [OpOutcome.fed .idleSof, OpOutcome.fed .lenOk] ++ List.replicate p.length (OpOutcome.fed .payload) ++ [OpOutcome.fed .csumOk] ∧
      t.deliveries = s.deliveries ++ [{ n := p.length, payload := p }] ∧
      t.pstate = .idle ∧ t.declaredLength.toNat = p.length ∧ t.writeIndex = p.length ∧ t.acc = cksum p ∧
      Memory.readRange t.payloadBuffer 0 p.length = some p ∧ Memory.read t.payloadBuffer p.length = some 0x00 ∧
      KeepsQueue s t ∧ t.busy = s.busy ∧ t.tx = s.tx

/-- Rejection (R94): from `Idle`, a frame with a wrong checksum byte, and a start marker with an invalid length, deliver nothing and
leave the parser in `Idle`, with the classes the rule lists. -/
def Obligations.BadFramesAreRejected : Prop :=
  (∀ (p : List Byte) (c : Byte) (s : State), s.cfg.ok → s.pstate = .idle → 0 < p.length → p.length < s.cfg.maxPayload →
    c ≠ cksum p →
    ∃ t, runOps (feeds (([0xAA, BitVec.ofNat 8 p.length] ++ p ++ [c] : List Byte))) s = .next t ∧
      t.outcomes = s.outcomes ++ [OpOutcome.fed .idleSof, OpOutcome.fed .lenOk] ++ List.replicate p.length (OpOutcome.fed .payload) ++ [OpOutcome.fed .csumBad] ∧
      t.deliveries = s.deliveries ∧ t.pstate = .idle) ∧
  (∀ (n : Byte) (s : State), s.pstate = .idle → n = 0 ∨ s.cfg.maxPayload ≤ n.toNat →
    ∃ t, runOps (feeds [0xAA, n]) s = .next t ∧
      t.outcomes = s.outcomes ++ [.fed .idleSof, .fed .lenBad] ∧ t.deliveries = s.deliveries ∧ t.pstate = .idle)

/-- Recovery (R92): whatever state the parser is in and whatever bytes follow, within `MAX_PAYLOAD + 1` of them it is in `Idle`. -/
def Obligations.ParserReturnsToIdle : Prop :=
  ∀ (bs : List Byte) (s : State), BlockInv s → bs.length = s.cfg.maxPayload + 1 →
    ∃ k t, k ≤ bs.length ∧ runOps (feeds (bs.take k)) s = .next t ∧ t.pstate = .idle

/-- The zero flush (R153): `MAX_PAYLOAD + 1` zero bytes leave the parser in `Idle` from wherever it stood. -/
def Obligations.ZeroFlushEndsInIdle : Prop :=
  ∀ s : State, BlockInv s → ∃ t, runOps (feeds (List.replicate (s.cfg.maxPayload + 1) 0x00)) s = .next t ∧ t.pstate = .idle

/-- "A delivered payload is always one whose bytes sum to the checksum that followed it" (R92), with its true length (R29). -/
def Obligations.DeliveredPayloadHasItsChecksum : Prop :=
  ∀ (b : Byte) (s t : State), BlockInv s → exec (.feed b) s = .next t → t.deliveries ≠ s.deliveries →
    ∃ p, t.deliveries = s.deliveries ++ [{ n := p.length, payload := p }] ∧ cksum p = b ∧
      0 < p.length ∧ p.length < s.cfg.maxPayload

/-! Consumer operations -/

/-- POLL (R88; the `busy` bit is decision D9): not enabled at `busy = 1`; on an empty queue nothing; else DEQ, then FEED of its byte,
and `busy` set exactly when the class is `FEED.CSUM.OK`. -/
def Obligations.PollIsDequeueThenFeed : Prop :=
  ∀ s : State,
    (s.busy = true → exec .poll s = .refused .pollNotEnabled) ∧
    (s.busy = false → s.head = s.tail → exec .poll s = .next { s with outcomes := s.outcomes ++ [.polled none] }) ∧
    (∀ (b : Byte) (u : State), s.busy = false → s.head ≠ s.tail → s.tail < s.cfg.n → Memory.read s.slot s.tail = some b →
      exec (.feed b) { s with tail := (s.tail + 1) % s.cfg.n } = .next u →
      exec .poll s = .next { u with
        busy := decide (classify s.ctx b = .csumOk)
        outcomes := s.outcomes ++ [.polled (some (classify s.ctx b))] })

/-- RESPOND (R89; decision D9): not enabled at `busy = 0`; at `busy = 1` it sends the four groups, or skips a response whose length is
out of range, and clears `busy` in both cases; it touches neither the queue nor the parser. -/
def Obligations.RespondSendsAndResumes : Prop :=
  ∀ (resp : List Byte) (s : State),
    (s.busy = false → exec (.respond resp) s = .refused .respondNotEnabled) ∧
    (s.busy = true → 0 < resp.length → resp.length < s.cfg.maxPayload →
      exec (.respond resp) s = .next { s with
        tx := s.tx ++ [[0xAA], [BitVec.ofNat 8 resp.length], resp, [cksum resp]]
        busy := false
        outcomes := s.outcomes ++ [.sent] }) ∧
    (s.busy = true → resp.length = 0 ∨ s.cfg.maxPayload ≤ resp.length →
      exec (.respond resp) s = .next { s with busy := false, outcomes := s.outcomes ++ [.skipped] })

/-- Draining ends (R66's DRAIN): within as many POLLs as bytes are held, each taking the oldest byte, the queue is empty or a payload
awaits its response. DRAIN is the POLLs up to and with the first that returns `None` or sets `busy`, one more than the bytes held
at most. In an endless execution whose consumer is fair (R161 (a); D25) and whose environment answers every DELIVER (R156),
whatever RX events there are (R161 (c)), POLL is taken again and again, and with no more RESETs every byte the queue holds is
dequeued. (`busy` is D9, the history log 13.) -/
def Obligations.DrainEnds : Prop :=
  (∀ s : State, BlockInv s → s.busy = false →
    ∃ k t, k ≤ s.count ∧ runOps (List.replicate k .poll) s = .next t ∧ (t.count = 0 ∨ t.busy = true) ∧
      t.contents = s.contents.drop k) ∧
  (∀ s : State, BlockInv s → s.busy = false →
    ∃ k t, 0 < k ∧ k ≤ s.count + 1 ∧ drain s = .next t ∧ runOps (List.replicate k .poll) s = .next t ∧
      (t.outcomes.getLast? = some (.polled none) ∨ t.busy = true) ∧ t.contents = s.contents.drop k ∧
      ∀ j u, 0 < j → j < k → runOps (List.replicate j .poll) s = .next u →
        u.outcomes.getLast? ≠ some (.polled none) ∧ u.busy = false) ∧
  (∀ e : Execution, e.consumerFair → e.environmentAnswers →
    (∀ k, ∃ j, k ≤ j ∧ e.op j = some .poll) ∧
    ∀ k, BlockInv (e.state k) → (∀ j, k ≤ j → e.op j ≠ some .reset) →
      ∃ j os, k ≤ j ∧ (e.state j).outcomes = (e.state k).outcomes ++ os ∧ (e.state k).count ≤ polledBytes os)

/-! FrameEmitter -/

/-- SEND (R95): the four groups start marker, length, payload, checksum in order, or nothing when the length is 0 or at least
`MAX_PAYLOAD`, compared as a natural number; no state element is read but the parameter or written; it is the consumer's and no
agent performs it on its own. -/
def Obligations.SendFramesOrSkips : Prop :=
  ∀ (resp : List Byte) (s : State),
    (0 < resp.length → resp.length < s.cfg.maxPayload →
      exec (.send resp) s = .next { s with
        tx := s.tx ++ [[0xAA], [BitVec.ofNat 8 resp.length], resp, [BitVec.ofNat 8 (sumBytes resp % 256)]]
        outcomes := s.outcomes ++ [.sent] }) ∧
    (resp.length = 0 ∨ s.cfg.maxPayload ≤ resp.length →
      exec (.send resp) s = .next { s with outcomes := s.outcomes ++ [.skipped] } ∧
      OpOutcome.skipped.error = some .emitSkipped) ∧
    agentOf (.send resp) = .consumer ∧ (encode (.send resp)).port.ofAgent = false ∧
    (s.cfg.ok → resp.length < s.cfg.maxPayload → (BitVec.ofNat 8 resp.length : Byte).toNat = resp.length)

/-- Round trip (R101): what SEND of `p` hands over, fed to any parser in `Idle` with the same ceiling, delivers exactly `(|p|, p)`. -/
def Obligations.SentFrameParsesBack : Prop :=
  ∀ (p : List Byte) (s r : State), s.cfg.ok → r.cfg = s.cfg → r.pstate = .idle → 0 < p.length → p.length < s.cfg.maxPayload →
    ∃ u t gs, exec (.send p) s = .next u ∧ u.tx = s.tx ++ gs ∧
      runOps (feeds gs.flatten) r = .next t ∧ t.deliveries = r.deliveries ++ [{ n := p.length, payload := p }]

/-! Frames on the wire -/

/-- The checksum (R55): the sum modulo 256, the same as adding each byte in turn to a byte that starts at 0, whatever the order. -/
def Obligations.ChecksumIsRunningSum : Prop :=
  ∀ p : List Byte,
    (cksum p).toNat = sumBytes p % 256 ∧ cksum p = p.foldl (fun a b => a + b) 0 ∧
    ∀ q : List Byte, q.Perm p → cksum q = cksum p

/-- The wire frame (R53, R56): the decoder of whole frames reads a byte sequence as FRAME exactly when it is `frame(p)` for a payload
of a valid length, and then reads that payload; its length is `|p| + 3`. -/
def Obligations.FrameDecodesExactlyWellFormed : Prop :=
  ∀ (m : Nat) (w : List Byte) (i : Instr), m ≤ 256 →
    (decodeFrame m w = .instr i ↔
      ∃ p, i = .frame p ∧ 0 < p.length ∧ p.length < m ∧ w = [0xAA, BitVec.ofNat 8 p.length] ++ p ++ [cksum p] ∧
        w.length = p.length + 3)

/-- FRAME as an operation is one ENQ per byte of `frame(p)` in order (R66's `RX FRAME`; that the row is read so is the model's choice,
log 12); a payload that has no frame (R56) is refused. -/
def Obligations.FrameIsItsBytesReceived : Prop :=
  ∀ (p : List Byte) (s : State),
    (0 < p.length → p.length < s.cfg.maxPayload → exec (.frame p) s = runOps (rx (frameOf p)) s) ∧
    (p.length = 0 ∨ s.cfg.maxPayload ≤ p.length → exec (.frame p) s = .refused .frameUndefined)

/-- A frame that arrives with room for it is stored whole behind what the queue holds; slots outside the ones it is stored in, and
everything but `slot` and `head`, are unchanged. (FRAME as an operation is log 12.) -/
def Obligations.FrameArrivesWhole : Prop :=
  ∀ (p : List Byte) (s : State), BlockInv s → 0 < p.length → p.length < s.cfg.maxPayload → s.count + (p.length + 3) ≤ s.cfg.n - 1 →
    ∃ t, exec (.frame p) s = .next t ∧ t.contents = s.contents ++ frameOf p ∧
      (∀ a, (∀ k, k < p.length + 3 → a ≠ (s.head + k) % s.cfg.n) → Memory.read t.slot a = Memory.read s.slot a) ∧
      t.tail = s.tail ∧ t.payloadBuffer = s.payloadBuffer ∧ t.busy = s.busy ∧
      KeepsParserRegisters s t ∧ KeepsOutputs s t ∧ KeepsSetting s t

/-! Decoding -/

/-- Sample words written out from the table: each decodes to its operation. (The ports are log 15.) -/
def Obligations.SampleEventsDecode : Prop :=
  decode { maxPayload := 128, pstate := .idle, acc := 0x00 } { port := .byteClass, data := [0xAA] } = .instr .feedIdleSof ∧
  decode { maxPayload := 128, pstate := .idle, acc := 0x00 } { port := .byteClass, data := [0xA9] } = .instr (.feedIdleSkip 0xA9) ∧
  decode { maxPayload := 128, pstate := .lengthExpected, acc := 0x00 } { port := .byteClass, data := [0x7F] } = .instr (.feedLenOk 0x7F) ∧
  decode { maxPayload := 128, pstate := .lengthExpected, acc := 0x00 } { port := .byteClass, data := [0x80] } = .instr (.feedLenBadOver 0x80) ∧
  decode { maxPayload := 128, pstate := .lengthExpected, acc := 0x00 } { port := .byteClass, data := [0x00] } = .instr .feedLenBadZero ∧
  decode { maxPayload := 128, pstate := .checksumExpected, acc := 0xAE } { port := .byteClass, data := [0xAE] } = .instr (.feedCsumOk 0xAE) ∧
  decode { maxPayload := 128, pstate := .checksumExpected, acc := 0xAE } { port := .byteClass, data := [0xD2] } = .instr (.feedCsumBad 0xD2) ∧
  decode { maxPayload := 128, pstate := .idle, acc := 0x00 } { port := .rx, data := [0x11] } = .instr (.enq 0x11) ∧
  decode { maxPayload := 128, pstate := .idle, acc := 0x00 } { port := .wire, data := [0xAA, 0x01, 0x41, 0x41] } = .instr (.frame [0x41])

/-- Decode and encode agree, for every operation and every operand its row admits, in every context that selects the row. (The ports
are log 15, FRAME as an operation log 12.) -/
def Obligations.DecodeOfEncode : Prop :=
  ∀ (c : Config) (x : DecodeCtx) (i : Instr), c.ok → x.maxPayload = c.maxPayload → i.wf c = true → i.selected x = true →
    decode x (encode i) = .instr i

/-- The other direction: an event has one meaning. What it decodes to is well-formed, is selected by the context, and encodes back to
the event. (The ports are log 15, FRAME as an operation log 12.) -/
def Obligations.EncodeOfDecode : Prop :=
  ∀ (c : Config) (x : DecodeCtx) (e : PortEvent) (i : Instr), c.ok → x.maxPayload = c.maxPayload → decode x e = .instr i →
    i.wf c = true ∧ i.selected x = true ∧ encode i = e

/-- The match and mask columns of opcode_table.json, tried in the table's order, give at `MAX_PAYLOAD = 128` the classes the
conditions give (R58, R67). -/
def Obligations.MatchMaskRowsAgree : Prop :=
  ∀ (ps : PState) (acc b : Byte), classifyByRows ps acc b = some (classify { maxPayload := 128, pstate := ps, acc := acc } b)

/-! Steps -/

/-- A step runs the operation its next event decodes to, on the state with that event taken off the schedule; with no event it is the
consumer's turn: POLL at `busy = 0`, and at `busy = 1` the block waits with nothing changed (R90, R156; that the schedule is data
is the model's, log 7 and 8). -/
def Obligations.StepRunsDecodedOperation : Prop :=
  (∀ (s : State) (e : PortEvent) (rest : List PortEvent) (i : Instr), s.cfg.ok → s.pending = e :: rest →
    decode s.ctx e = .instr i → step s = exec i { s with pending := rest }) ∧
  (∀ s : State, s.cfg.ok → s.pending = [] → s.busy = false → step s = exec .poll s) ∧
  (∀ s : State, s.cfg.ok → s.pending = [] → s.busy = true → step s = .next s)

/-- A run of steps over a schedule of operations is that trace of operations: any interleaving of the agents' operations (R43, R44) is
a run of the machine, and every beginning of an endless execution is one. (The schedule is log 7.) -/
def Obligations.ScheduleRunsAsTrace : Prop :=
  (∀ (ops : List Instr) (s : State), s.cfg.ok → (∀ i, i ∈ ops → isClassRow i = false ∧ i.wf s.cfg = true) →
    Sys2Proof.core.run ops.length { s with pending := ops.map encode } = runOps ops { s with pending := [] }) ∧
  (∀ (e : Execution) (n : Nat), (e.state 0).cfg.ok → (e.state 0).pending = [] →
    Sys2Proof.core.run (e.opsBefore n).length { e.state 0 with pending := (e.opsBefore n).map encode } = .next (e.state n))

/-- Every operation keeps the invariants, in any trace, and so does every step: cursors in range, every held slot written, the
memories canonical and in range, `acc` the sum of the payload bytes so far (R25 I1 to I4), deliveries well formed (R29), the
transmit output whole frames (R97). -/
def Obligations.StepKeepsInvariants : Prop :=
  (∀ (i : Instr) (s t : State), BlockInv s → exec i s = .next t → BlockInv t) ∧
  (∀ s t : State, BlockInv s → step s = .next t → BlockInv t)

/-- A step an agent takes keeps the `busy` interlock (R25 I5, R24, R29): while `busy = 1` the parser is in `Idle` and the delivered
payload stands in the buffer, terminated. (`busy` is D9, the schedule log 7 and 8.) -/
def Obligations.AgentStepKeepsInterlock : Prop :=
  ∀ s t : State, BlockInv s → BusyInv s → s.drivenByAgent = true → step s = .next t → BusyInv t

/-- No step from a state that meets the invariants faults: no unwritten byte is read and no index is out of range (R18, R36). (The
faults are log 5 and 6.) -/
def Obligations.StepNeverFaults : Prop :=
  ∀ (s : State) (f : Fault), BlockInv s → step s ≠ .fault f

/-- Every operation is defined wherever it is enabled (R68): under the invariants each completes, POLL at `busy = 0`, RESPOND at `busy
= 1`, FRAME for a payload that has a frame. (`busy` is D9, FRAME as an operation log 12.) -/
def Obligations.EnabledOperationsComplete : Prop :=
  ∀ s : State, BlockInv s →
    (∀ b, ∃ t, exec (.enq b) s = .next t) ∧ (∃ t, exec .deq s = .next t) ∧ (∀ b, ∃ t, exec (.feed b) s = .next t) ∧
    (s.busy = false → ∃ t, exec .poll s = .next t) ∧ (s.busy = true → ∀ resp, ∃ t, exec (.respond resp) s = .next t) ∧
    (∀ resp, ∃ t, exec (.send resp) s = .next t) ∧ (∃ t, exec .reset s = .next t) ∧
    (∀ p, 0 < p.length → p.length < s.cfg.maxPayload → ∃ t, exec (.frame p) s = .next t)

/-- Every access is in range and of a written byte (R36, R16, R18, R23, R147). Any trace of operations from reset, byte classes and the
parts of POLL and RESPOND alone included, ends without a fault; and where it leads, ENQ's slot and DEQ's slot are in `[0, N-1]` and
DEQ's, if any byte is held, was written; a payload byte goes to an index below `declaredLength <= MAX_PAYLOAD - 1`; at the checksum
byte the terminator's index is at most `MAX_PAYLOAD - 1` and every payload byte before it was written; and no byte outside either
memory was ever written. (That an access elsewhere would be a fault is log 5 and 6.) -/
def Obligations.AccessesStayInRange : Prop :=
  ∀ (c : Config) (ops : List Instr), c.ok →
    (∀ f, runOps ops (State.resetWith c) ≠ .fault f) ∧
    ∀ s, runOps ops (State.resetWith c) = .next s →
      s.head ≤ c.n - 1 ∧ s.tail ≤ c.n - 1 ∧ (s.head ≠ s.tail → ∃ b, Memory.read s.slot s.tail = some b) ∧
      (s.pstate = .payloadAccumulating →
        s.writeIndex < s.declaredLength.toNat ∧ s.declaredLength.toNat ≤ c.maxPayload - 1) ∧
      (s.pstate = .checksumExpected →
        s.declaredLength.toNat ≤ c.maxPayload - 1 ∧
        ∀ a, a < s.declaredLength.toNat → ∃ b, Memory.read s.payloadBuffer a = some b) ∧
      (∀ a b, Memory.read s.slot a = some b → a ≤ c.n - 1) ∧
      (∀ a b, Memory.read s.payloadBuffer a = some b → a ≤ c.maxPayload - 1)

/-! Whole-machine rules -/

/-- Who writes what (R135): the producer's operations never change `tail`, the parser, the payload buffer, `busy` or the outputs; the
consumer's never change `head` or any slot. -/
def Obligations.AgentsWriteOnlyTheirOwn : Prop :=
  ∀ (i : Instr) (s t : State), exec i s = .next t →
    (agentOf i = .producer →
      t.tail = s.tail ∧ KeepsParserRegisters s t ∧ t.payloadBuffer = s.payloadBuffer ∧ t.busy = s.busy ∧ KeepsOutputs s t) ∧
    (agentOf i = .consumer → t.head = s.head ∧ t.slot = s.slot)

/-- What reaches the outputs (R97, R29): the transmit output grows only by SEND or RESPOND, by the four groups of a response in range;
the delivery output grows only by the parser's operations and POLL, by one event at a time; RESET is left to another statement. -/
def Obligations.OutputsGrowOnlyAsSaid : Prop :=
  ∀ (i : Instr) (s t : State), exec i s = .next t → i ≠ .reset →
    (t.tx = s.tx ∨ ∃ resp, (i = .send resp ∨ i = .respond resp) ∧ 0 < resp.length ∧ resp.length < s.cfg.maxPayload ∧
      t.tx = s.tx ++ [[0xAA], [BitVec.ofNat 8 resp.length], resp, [cksum resp]]) ∧
    (t.deliveries = s.deliveries ∨ (i = .poll ∨ isFeedRow i = true) ∧ ∃ d, t.deliveries = s.deliveries ++ [d])

/-- `busy` is set only by a POLL that delivers and cleared only by RESPOND or RESET (R24); so a DELIVER that is never answered is a
hang (R156): in the execution from then on the consumer takes nothing from the queue and nothing reaches the outputs, and the
bytes held stay held, though the producer still runs. (`busy` is D9.) -/
def Obligations.BusyIsSetByDeliveryOnly : Prop :=
  (∀ (i : Instr) (s t : State), exec i s = .next t →
    (s.busy = false → t.busy = true → i = .poll ∧ ∃ d, t.deliveries = s.deliveries ++ [d]) ∧
    (s.busy = true → t.busy = false → i = .reset ∨ ∃ resp, i = .respond resp)) ∧
  (∀ (e : Execution) (k : Nat), BlockInv (e.state k) → (e.state k).busy = true → (∀ j, k ≤ j → ¬ e.waitEndsAt j) →
    ∀ j, k ≤ j → (e.state j).busy = true ∧ (e.state j).tail = (e.state k).tail ∧ e.op j ≠ some .poll ∧
      KeepsOutputs (e.state k) (e.state j) ∧ (e.state k).contents <+: (e.state j).contents)

/-- Every transport error is silent and recovered on the spot (R119, R124, R125, R130): an operation (FRAME, a run of ENQs, left out)
that raises one adds nothing to either output and changes nothing but: `pstate <- Idle` for a frame error, `tail` where POLL took
the byte, `busy` where RESPOND ends. -/
def Obligations.TransportErrorsAreSilent : Prop :=
  ∀ (i : Instr) (s t : State) (o : OpOutcome) (e : TransportError), exec i s = .next t → (∀ p, i ≠ .frame p) →
    t.outcomes = s.outcomes ++ [o] → o.error = some e →
    KeepsOutputs s t ∧ KeepsSetting s t ∧ t.slot = s.slot ∧ t.head = s.head ∧ t.payloadBuffer = s.payloadBuffer ∧
    t.declaredLength = s.declaredLength ∧ t.acc = s.acc ∧ t.writeIndex = s.writeIndex ∧
    (i ≠ .poll → t.tail = s.tail) ∧ ((∀ resp, i ≠ .respond resp) → t.busy = s.busy) ∧
    t.pstate = (match e with
      | .lengthViolation => .idle
      | .checksumMismatch => .idle
      | .queueOverflow => s.pstate
      | .emitSkipped => s.pstate)

/-- An ENQ and a consumer operation on one clock edge (R43). With POLL the result is that of ENQ then POLL on a full queue, of POLL
then ENQ on an empty one, and of either order otherwise; with RESPOND it is that of either order. The event history (the model's
own, log 17) lists the ENQ first. (One clock edge is D2, `busy` D9.) -/
def Obligations.SameEdgeIsSomeInterleaving : Prop :=
  ∀ (b : Byte) (s : State), BlockInv s →
    (s.busy = false → ∃ t, sameEdge b .poll s = .next t ∧
      (s.empty = false → runOps [.enq b, .poll] s = .next t) ∧
      (s.full = false → ∃ u, runOps [.poll, .enq b] s = .next u ∧ u.withoutOutcomes = t.withoutOutcomes)) ∧
    (s.busy = true → ∀ resp, ∃ t, sameEdge b (.respond resp) s = .next t ∧
      runOps [.enq b, .respond resp] s = .next t ∧
      ∃ u, runOps [.respond resp, .enq b] s = .next u ∧ u.withoutOutcomes = t.withoutOutcomes)

/-- Quiescence (R162): with the queue empty and `busy = 0` the only enabled consumer step changes nothing (but the model's history).
(The notion is D27.) -/
def Obligations.QuiescentPollChangesNothing : Prop :=
  ∀ s : State, s.quiescent = true →
    exec .poll s = .next { s with outcomes := s.outcomes ++ [.polled none] } ∧
    ∀ resp, exec (.respond resp) s = .refused .respondNotEnabled

/-! Ports -/

/-- The dispatcher's window (R29, R32): while `frame_valid = 1`, `frame_len` is the delivered payload's length, `frame_rdata` reads
its bytes and `TERM` after them, and beyond that, and while `frame_valid = 0`, it has no value (log 19). (The ports are D21, the
standing payload D10.) -/
def Obligations.DeliveredPayloadStandsAtPorts : Prop :=
  ∀ s : State, BusyInv s →
    (s.frameValid = true → ∃ p, s.deliveries.getLast? = some { n := p.length, payload := p } ∧ s.frameLen.toNat = p.length ∧
      (∀ a, a < p.length → s.frameRdata a = p[a]?) ∧ s.frameRdata p.length = some 0x00 ∧
      ∀ a, p.length < a → s.frameRdata a = none) ∧
    (s.frameValid = false → ∀ a, s.frameRdata a = none)

/-- One clock edge (R32, R143). With `rst = 1` RESET and nothing else. With `rst = 0`: ENQ at `rx_valid`; RESPOND of the bytes taken,
that edge's included, at the edge that takes `resp_last` while a response is awaited; POLL where the consumer takes it while none
is; ENQ and the consumer's operation together where both happen (R43); and no change to the block where neither does. Response
bytes are kept from edge to edge until `resp_last`. Under the invariants an edge completes and keeps them. (The ports are D21,
what is kept beside the block, and `resp_last` without a byte after bytes, log 18; the history at a shared edge log 17.) -/
def Obligations.EdgePerformsPortOperations : Prop :=
  ∀ (i : PortsIn) (h : Harness),
    let taken := if h.block.busy = true ∧ i.respValid = true then h.respBytes ++ [i.respData] else h.respBytes
    (i.rst = true → ∃ t, exec .reset h.block = .next t ∧ h.edge i = .next { block := t, respBytes := [], txTaken := 0 }) ∧
    (i.rst = false → (h.block.busy = true ∧ i.respLast = false) ∨ (h.block.busy = false ∧ i.poll = false) →
      (i.rxValid = false → ∃ h', h.edge i = .next h' ∧ h'.block = h.block ∧ h'.respBytes = taken) ∧
      (i.rxValid = true → ∀ t, exec (.enq i.rxData) h.block = .next t →
        ∃ h', h.edge i = .next h' ∧ h'.block = t ∧ h'.respBytes = taken)) ∧
    (i.rst = false → h.block.busy = true → i.respLast = true →
      (i.rxValid = false → ∀ t, exec (.respond taken) h.block = .next t →
        ∃ h', h.edge i = .next h' ∧ h'.block = t ∧ h'.respBytes = []) ∧
      (i.rxValid = true → ∀ t, sameEdge i.rxData (.respond taken) h.block = .next t →
        ∃ h', h.edge i = .next h' ∧ h'.block = t ∧ h'.respBytes = [])) ∧
    (i.rst = false → h.block.busy = false → i.poll = true →
      (i.rxValid = false → ∀ t, exec .poll h.block = .next t →
        ∃ h', h.edge i = .next h' ∧ h'.block = t ∧ h'.respBytes = h.respBytes) ∧
      (i.rxValid = true → ∀ t, sameEdge i.rxData .poll h.block = .next t →
        ∃ h', h.edge i = .next h' ∧ h'.block = t ∧ h'.respBytes = h.respBytes)) ∧
    (BlockInv h.block → ∃ h', h.edge i = .next h' ∧ BlockInv h'.block)

/-- The transmit port (R32): `tx_data` is the first byte of the handed-over output not yet accepted, none where all are; it stays
until it is accepted, which is exactly at an edge with `tx_valid = tx_ready = 1`; and the port never runs ahead of what was
handed over. (The ports are D21, the count of bytes taken log 18.) -/
def Obligations.TransmitPortFollowsOutput : Prop :=
  (∀ (h : Harness) (sent left : List Byte), h.block.tx.flatten = sent ++ left → h.txTaken = sent.length →
    h.txData = left.head?) ∧
  ∀ (i : PortsIn) (h h' : Harness), h.txTaken ≤ h.block.tx.flatten.length → h.edge i = .next h' →
    h'.txTaken ≤ h'.block.tx.flatten.length ∧
    (i.rst = false → h'.txTaken = if i.txReady = true ∧ h.txTaken < h.block.tx.flatten.length then h.txTaken + 1 else h.txTaken) ∧
    (i.rst = false → i.txReady = false → ∀ b, h.txData = some b → h'.txData = some b)

/-! The environment's dispatcher -/

/-- The complete set of responses (R111): seven strings, each of 1 to 18 bytes. -/
def Obligations.DispatcherAnswersOneOfSeven : Prop :=
  ∀ p : List Byte,
    (Dispatcher.handle p).resp ∈ [Dispatcher.ackPong, Dispatcher.ledOk, Dispatcher.ledErr, Dispatcher.motorOk,
      Dispatcher.motorFormat, Dispatcher.motorBadArgs, Dispatcher.unknown] ∧
    0 < (Dispatcher.handle p).resp.length ∧ (Dispatcher.handle p).resp.length ≤ 18

/-- The command table (R106 to R109, R113) on the trimmed string (the whitespace set is PRESUMED, log 20;
that the `motor:` arguments are not trimmed and digits of any length are accepted is log 27, that a string is its single bytes log 29). -/
def Obligations.DispatcherFollowsCommandTable : Prop :=
  ∀ p : List Byte,
    let cmd := Dispatcher.trim (Dispatcher.untilTerm p)
    let r := Dispatcher.handle p
    (cmd = Dispatcher.strPing → r = { resp := Dispatcher.ackPong, drive := none }) ∧
    (∀ rest, cmd = Dispatcher.strLed ++ rest →
      (Dispatcher.trim rest = Dispatcher.strOn → r = { resp := Dispatcher.ledOk, drive := some true }) ∧
      (Dispatcher.trim rest = Dispatcher.strOff → r = { resp := Dispatcher.ledOk, drive := some false }) ∧
      (Dispatcher.trim rest ≠ Dispatcher.strOn → Dispatcher.trim rest ≠ Dispatcher.strOff →
        r = { resp := Dispatcher.ledErr, drive := none })) ∧
    (∀ rest, cmd = Dispatcher.strMotor ++ rest → Dispatcher.colon ∉ rest →
      r = { resp := Dispatcher.motorFormat, drive := none }) ∧
    (∀ steps dir, cmd = Dispatcher.strMotor ++ steps ++ [Dispatcher.colon] ++ dir → Dispatcher.colon ∉ steps →
      r = { resp := if steps ≠ [] ∧ (∀ b, b ∈ steps → 0x30 ≤ b.toNat ∧ b.toNat ≤ 0x39) ∧ (dir = [0x30] ∨ dir = [0x31])
              then Dispatcher.motorOk else Dispatcher.motorBadArgs, drive := none }) ∧
    (cmd ≠ Dispatcher.strPing → (∀ rest, cmd ≠ Dispatcher.strLed ++ rest) → (∀ rest, cmd ≠ Dispatcher.strMotor ++ rest) →
      r = { resp := Dispatcher.unknown, drive := none })

/-- The split of the `motor:` arguments does not matter (R108): the first `':'` and the last give the same answer. -/
def Obligations.MotorSplitDoesNotMatter : Prop := ∀ p : List Byte, Dispatcher.handleLastSplit p = Dispatcher.handle p

/-- The collaborator's arming (R127, U15): a byte that arrives armed is one ENQ and disarms; one that arrives unarmed never reaches
the block; the handler re-arms. (D13 leaves arming to the environment; that `armed` is 0 after the ENQ, the re-arming a later step,
is the model's choice, log 22: R127 leaves the order open.) -/
def Obligations.ArmingGatesReception : Prop :=
  ∀ (b : Byte) (w : World),
    (w.armed = true → ∀ t, exec (.enq b) w.block = .next t →
      w.receive b = .next { block := t, armed := false, digitalOut := w.digitalOut }) ∧
    (w.armed = false → w.receive b = .next w) ∧ w.rearm = { w with armed := true }

/-- End to end (R117): a frame that arrives in an idle, empty block with room for it is delivered once by the POLLs that follow, the
dispatcher's answer is framed on TX (whatever payload it was: the answer to bytes with `0x00` in them is that of the string before
it, R104), the output is driven as the command says, and the block is quiescent again. (`busy` is D9, FRAME as an operation log
12.) -/
def Obligations.CommandIsAnsweredEndToEnd : Prop :=
  ∀ (p : List Byte) (w : World), BlockInv w.block → w.block.quiescent = true → w.block.pstate = .idle →
    19 ≤ w.block.cfg.maxPayload → 0 < p.length → p.length < w.block.cfg.maxPayload → p.length + 3 ≤ w.block.cfg.n - 1 →
    ∃ (t : State) (u : World),
      runOps (.frame p :: List.replicate (p.length + 3) .poll) w.block = .next t ∧
      t.busy = true ∧ t.deliveries = w.block.deliveries ++ [{ n := p.length, payload := p }] ∧
      World.answer { w with block := t } = .next u ∧
      u.block.tx.flatten = w.block.tx.flatten ++ frameOf (Dispatcher.handle p).resp ∧
      u.block.deliveries = t.deliveries ∧ u.block.quiescent = true ∧ u.block.pstate = .idle ∧
      u.digitalOut = (Dispatcher.handle p).drive.getD w.digitalOut
end

