-- ==== Sys2Proof/Laws/Checksum.lean ====
section
/-! SUPPORT. The sum and the checksum (30_encoding.md R55), and the wire frame (R56). -/

namespace Sys2Proof

@[simp] theorem sumBytes_nil : sumBytes [] = 0 := rfl

@[simp] theorem sumBytes_cons (b : Byte) (bs : List Byte) : sumBytes (b :: bs) = b.toNat + sumBytes bs := rfl

@[simp] theorem sumBytes_append (p q : List Byte) : sumBytes (p ++ q) = sumBytes p + sumBytes q := by
  induction p with
  | nil => simp
  | cons b p ih => simp [ih, Nat.add_assoc]

@[simp] theorem cksum_nil : cksum [] = 0 := rfl

/-- The running sum: one more byte is one more addition (R55). -/
theorem cksum_snoc (p : List Byte) (b : Byte) : cksum (p ++ [b]) = cksum p + b := by
  apply BitVec.eq_of_toNat_eq
  simp [cksum, BitVec.toNat_add]

theorem cksum_cons (p : List Byte) (b : Byte) : cksum (b :: p) = b + cksum p := by
  apply BitVec.eq_of_toNat_eq
  simp [cksum, BitVec.toNat_add]

@[simp] theorem frameOf_length (p : List Byte) : (frameOf p).length = p.length + 3 := by
  simp [frameOf]

/-- A length in range fits the length byte (R54, D5). -/
theorem length_byte {p : List Byte} {m : Nat} (h : p.length < m) (hm : m ≤ 256) : (BitVec.ofNat 8 p.length).toNat = p.length := by
  simp only [BitVec.toNat_ofNat]; omega

theorem lengthInRange_iff {m l : Nat} : lengthInRange m l = true ↔ 0 < l ∧ l < m := by
  simp [lengthInRange]

end Sys2Proof
end

