-- ==== Sys2Proof/Laws/Decode.lean ====
section
/-! SUPPORT. What the decoder gives: the row of every byte in every state (30_encoding.md R58, R68), and the parts of a wire frame. -/

namespace Sys2Proof

theorem byte_pos {b : Byte} (h : b ≠ 0) : 0 < b.toNat := by
  rcases Nat.eq_zero_or_pos b.toNat with h0 | h0
  · exact absurd (BitVec.eq_of_toNat_eq (by simpa using h0)) h
  · exact h0

/-- Every byte in every state, with its class and its row: one case per row of the table. -/
theorem decodeByte_cases (x : DecodeCtx) (b : Byte) :
    (x.pstate = .idle ∧ b = sof ∧ classify x b = .idleSof ∧ decodeByte x b = .feedIdleSof) ∨
    (x.pstate = .idle ∧ b ≠ sof ∧ classify x b = .idleSkip ∧ decodeByte x b = .feedIdleSkip b) ∨
    (x.pstate = .lengthExpected ∧ (0 < b.toNat ∧ b.toNat < x.maxPayload) ∧ classify x b = .lenOk ∧ decodeByte x b = .feedLenOk b) ∨
    (x.pstate = .lengthExpected ∧ b = 0 ∧ classify x b = .lenBad ∧ decodeByte x b = .feedLenBadZero) ∨
    (x.pstate = .lengthExpected ∧ (b ≠ 0 ∧ x.maxPayload ≤ b.toNat) ∧ classify x b = .lenBad ∧ decodeByte x b = .feedLenBadOver b) ∨
    (x.pstate = .payloadAccumulating ∧ classify x b = .payload ∧ decodeByte x b = .feedPayload b) ∨
    (x.pstate = .checksumExpected ∧ b = x.acc ∧ classify x b = .csumOk ∧ decodeByte x b = .feedCsumOk b) ∨
    (x.pstate = .checksumExpected ∧ b ≠ x.acc ∧ classify x b = .csumBad ∧ decodeByte x b = .feedCsumBad b) := by
  have row : ∀ k, classify x b = k → decodeByte x b = instrOfClass k b := by rintro k rfl; rfl
  cases hp : x.pstate
  · by_cases hb : b = sof
    · have hk : classify x b = .idleSof := by simp [classify, hp, hb]
      exact .inl ⟨rfl, hb, hk, row _ hk⟩
    · have hk : classify x b = .idleSkip := by simp [classify, hp, hb]
      exact .inr (.inl ⟨rfl, hb, hk, row _ hk⟩)
  · by_cases hl : 0 < b.toNat ∧ b.toNat < x.maxPayload
    · have hk : classify x b = .lenOk := by simp [classify, hp, lengthInRange_iff.mpr hl]
      exact .inr (.inr (.inl ⟨rfl, hl, hk, row _ hk⟩))
    · have hk : classify x b = .lenBad := by
        have : ¬ lengthInRange x.maxPayload b.toNat = true := fun h => hl (lengthInRange_iff.mp h)
        simp [classify, hp, this]
      by_cases h0 : b = 0
      · exact .inr (.inr (.inr (.inl ⟨rfl, h0, hk, by rw [row _ hk]; simp [instrOfClass, h0]⟩)))
      · have := byte_pos h0
        exact .inr (.inr (.inr (.inr (.inl ⟨rfl, ⟨h0, by omega⟩, hk, by rw [row _ hk]; simp only [instrOfClass, h0, if_false]⟩))))
  · have hk : classify x b = .payload := by simp [classify, hp]
    exact .inr (.inr (.inr (.inr (.inr (.inl ⟨rfl, hk, row _ hk⟩)))))
  · by_cases hb : b = x.acc
    · have hk : classify x b = .csumOk := by simp [classify, hp, hb]
      exact .inr (.inr (.inr (.inr (.inr (.inr (.inl ⟨rfl, hb, hk, row _ hk⟩))))))
    · have hk : classify x b = .csumBad := by simp [classify, hp, hb]
      exact .inr (.inr (.inr (.inr (.inr (.inr (.inr ⟨rfl, hb, hk, row _ hk⟩))))))

/-- What the payload and checksum part of a wire frame decodes to. -/
theorem decodeBody_eq_instr {n : Nat} {body : List Byte} {i : Instr} (h : decodeBody n body = .instr i) :
    ∃ p, i = .frame p ∧ p.length = n ∧ body = p ++ [cksum p] := by
  unfold decodeBody at h
  split at h
  · cases h
  · rename_i c hd
    split at h
    · rename_i hc
      cases h
      have hl := congrArg List.length hd
      simp at hl
      refine ⟨body.take n, rfl, by simp; omega, ?_⟩
      rw [← hc, ← hd, List.take_append_drop]
    · cases h
  · cases h

theorem decodeBody_frame (p : List Byte) : decodeBody p.length (p ++ [cksum p]) = .instr (.frame p) := by
  simp [decodeBody]

end Sys2Proof
end

