-- ==== Sys2Proof/Laws/State.lean ====
section
/-! SUPPORT. One lemma per field per update, and the computed conditions over the updates that leave them alone; all by rfl. -/

namespace Sys2Proof.Machine

variable (s : State)


/-! setSlot -/

@[simp] theorem setSlot_cfg (v : Memory) : (s.setSlot v).cfg = s.cfg := rfl
@[simp] theorem setSlot_slot (v : Memory) : (s.setSlot v).slot = v := rfl
@[simp] theorem setSlot_head (v : Memory) : (s.setSlot v).head = s.head := rfl
@[simp] theorem setSlot_tail (v : Memory) : (s.setSlot v).tail = s.tail := rfl
@[simp] theorem setSlot_pstate (v : Memory) : (s.setSlot v).pstate = s.pstate := rfl
@[simp] theorem setSlot_declaredLength (v : Memory) : (s.setSlot v).declaredLength = s.declaredLength := rfl
@[simp] theorem setSlot_acc (v : Memory) : (s.setSlot v).acc = s.acc := rfl
@[simp] theorem setSlot_writeIndex (v : Memory) : (s.setSlot v).writeIndex = s.writeIndex := rfl
@[simp] theorem setSlot_payloadBuffer (v : Memory) : (s.setSlot v).payloadBuffer = s.payloadBuffer := rfl
@[simp] theorem setSlot_busy (v : Memory) : (s.setSlot v).busy = s.busy := rfl
@[simp] theorem setSlot_deliveries (v : Memory) : (s.setSlot v).deliveries = s.deliveries := rfl
@[simp] theorem setSlot_tx (v : Memory) : (s.setSlot v).tx = s.tx := rfl
@[simp] theorem setSlot_outcomes (v : Memory) : (s.setSlot v).outcomes = s.outcomes := rfl
@[simp] theorem setSlot_pending (v : Memory) : (s.setSlot v).pending = s.pending := rfl
@[simp] theorem setSlot_empty (v : Memory) : (s.setSlot v).empty = s.empty := rfl
@[simp] theorem setSlot_full (v : Memory) : (s.setSlot v).full = s.full := rfl
@[simp] theorem setSlot_count (v : Memory) : (s.setSlot v).count = s.count := rfl
@[simp] theorem setSlot_ctx (v : Memory) : (s.setSlot v).ctx = s.ctx := rfl
@[simp] theorem setSlot_queueIndex (v : Memory) (k : Nat) : (s.setSlot v).queueIndex k = s.queueIndex k := rfl

/-! setHead -/

@[simp] theorem setHead_cfg (v : Nat) : (s.setHead v).cfg = s.cfg := rfl
@[simp] theorem setHead_slot (v : Nat) : (s.setHead v).slot = s.slot := rfl
@[simp] theorem setHead_head (v : Nat) : (s.setHead v).head = v := rfl
@[simp] theorem setHead_tail (v : Nat) : (s.setHead v).tail = s.tail := rfl
@[simp] theorem setHead_pstate (v : Nat) : (s.setHead v).pstate = s.pstate := rfl
@[simp] theorem setHead_declaredLength (v : Nat) : (s.setHead v).declaredLength = s.declaredLength := rfl
@[simp] theorem setHead_acc (v : Nat) : (s.setHead v).acc = s.acc := rfl
@[simp] theorem setHead_writeIndex (v : Nat) : (s.setHead v).writeIndex = s.writeIndex := rfl
@[simp] theorem setHead_payloadBuffer (v : Nat) : (s.setHead v).payloadBuffer = s.payloadBuffer := rfl
@[simp] theorem setHead_busy (v : Nat) : (s.setHead v).busy = s.busy := rfl
@[simp] theorem setHead_deliveries (v : Nat) : (s.setHead v).deliveries = s.deliveries := rfl
@[simp] theorem setHead_tx (v : Nat) : (s.setHead v).tx = s.tx := rfl
@[simp] theorem setHead_outcomes (v : Nat) : (s.setHead v).outcomes = s.outcomes := rfl
@[simp] theorem setHead_pending (v : Nat) : (s.setHead v).pending = s.pending := rfl
@[simp] theorem setHead_ctx (v : Nat) : (s.setHead v).ctx = s.ctx := rfl
@[simp] theorem setHead_queueIndex (v : Nat) (k : Nat) : (s.setHead v).queueIndex k = s.queueIndex k := rfl

/-! setTail -/

@[simp] theorem setTail_cfg (v : Nat) : (s.setTail v).cfg = s.cfg := rfl
@[simp] theorem setTail_slot (v : Nat) : (s.setTail v).slot = s.slot := rfl
@[simp] theorem setTail_head (v : Nat) : (s.setTail v).head = s.head := rfl
@[simp] theorem setTail_tail (v : Nat) : (s.setTail v).tail = v := rfl
@[simp] theorem setTail_pstate (v : Nat) : (s.setTail v).pstate = s.pstate := rfl
@[simp] theorem setTail_declaredLength (v : Nat) : (s.setTail v).declaredLength = s.declaredLength := rfl
@[simp] theorem setTail_acc (v : Nat) : (s.setTail v).acc = s.acc := rfl
@[simp] theorem setTail_writeIndex (v : Nat) : (s.setTail v).writeIndex = s.writeIndex := rfl
@[simp] theorem setTail_payloadBuffer (v : Nat) : (s.setTail v).payloadBuffer = s.payloadBuffer := rfl
@[simp] theorem setTail_busy (v : Nat) : (s.setTail v).busy = s.busy := rfl
@[simp] theorem setTail_deliveries (v : Nat) : (s.setTail v).deliveries = s.deliveries := rfl
@[simp] theorem setTail_tx (v : Nat) : (s.setTail v).tx = s.tx := rfl
@[simp] theorem setTail_outcomes (v : Nat) : (s.setTail v).outcomes = s.outcomes := rfl
@[simp] theorem setTail_pending (v : Nat) : (s.setTail v).pending = s.pending := rfl
@[simp] theorem setTail_ctx (v : Nat) : (s.setTail v).ctx = s.ctx := rfl

/-! setPstate -/

@[simp] theorem setPstate_cfg (v : PState) : (s.setPstate v).cfg = s.cfg := rfl
@[simp] theorem setPstate_slot (v : PState) : (s.setPstate v).slot = s.slot := rfl
@[simp] theorem setPstate_head (v : PState) : (s.setPstate v).head = s.head := rfl
@[simp] theorem setPstate_tail (v : PState) : (s.setPstate v).tail = s.tail := rfl
@[simp] theorem setPstate_pstate (v : PState) : (s.setPstate v).pstate = v := rfl
@[simp] theorem setPstate_declaredLength (v : PState) : (s.setPstate v).declaredLength = s.declaredLength := rfl
@[simp] theorem setPstate_acc (v : PState) : (s.setPstate v).acc = s.acc := rfl
@[simp] theorem setPstate_writeIndex (v : PState) : (s.setPstate v).writeIndex = s.writeIndex := rfl
@[simp] theorem setPstate_payloadBuffer (v : PState) : (s.setPstate v).payloadBuffer = s.payloadBuffer := rfl
@[simp] theorem setPstate_busy (v : PState) : (s.setPstate v).busy = s.busy := rfl
@[simp] theorem setPstate_deliveries (v : PState) : (s.setPstate v).deliveries = s.deliveries := rfl
@[simp] theorem setPstate_tx (v : PState) : (s.setPstate v).tx = s.tx := rfl
@[simp] theorem setPstate_outcomes (v : PState) : (s.setPstate v).outcomes = s.outcomes := rfl
@[simp] theorem setPstate_pending (v : PState) : (s.setPstate v).pending = s.pending := rfl
@[simp] theorem setPstate_empty (v : PState) : (s.setPstate v).empty = s.empty := rfl
@[simp] theorem setPstate_full (v : PState) : (s.setPstate v).full = s.full := rfl
@[simp] theorem setPstate_count (v : PState) : (s.setPstate v).count = s.count := rfl
@[simp] theorem setPstate_contents (v : PState) : (s.setPstate v).contents = s.contents := rfl
@[simp] theorem setPstate_queueIndex (v : PState) (k : Nat) : (s.setPstate v).queueIndex k = s.queueIndex k := rfl

/-! setDeclaredLength -/

@[simp] theorem setDeclaredLength_cfg (v : Byte) : (s.setDeclaredLength v).cfg = s.cfg := rfl
@[simp] theorem setDeclaredLength_slot (v : Byte) : (s.setDeclaredLength v).slot = s.slot := rfl
@[simp] theorem setDeclaredLength_head (v : Byte) : (s.setDeclaredLength v).head = s.head := rfl
@[simp] theorem setDeclaredLength_tail (v : Byte) : (s.setDeclaredLength v).tail = s.tail := rfl
@[simp] theorem setDeclaredLength_pstate (v : Byte) : (s.setDeclaredLength v).pstate = s.pstate := rfl
@[simp] theorem setDeclaredLength_declaredLength (v : Byte) : (s.setDeclaredLength v).declaredLength = v := rfl
@[simp] theorem setDeclaredLength_acc (v : Byte) : (s.setDeclaredLength v).acc = s.acc := rfl
@[simp] theorem setDeclaredLength_writeIndex (v : Byte) : (s.setDeclaredLength v).writeIndex = s.writeIndex := rfl
@[simp] theorem setDeclaredLength_payloadBuffer (v : Byte) : (s.setDeclaredLength v).payloadBuffer = s.payloadBuffer := rfl
@[simp] theorem setDeclaredLength_busy (v : Byte) : (s.setDeclaredLength v).busy = s.busy := rfl
@[simp] theorem setDeclaredLength_deliveries (v : Byte) : (s.setDeclaredLength v).deliveries = s.deliveries := rfl
@[simp] theorem setDeclaredLength_tx (v : Byte) : (s.setDeclaredLength v).tx = s.tx := rfl
@[simp] theorem setDeclaredLength_outcomes (v : Byte) : (s.setDeclaredLength v).outcomes = s.outcomes := rfl
@[simp] theorem setDeclaredLength_pending (v : Byte) : (s.setDeclaredLength v).pending = s.pending := rfl
@[simp] theorem setDeclaredLength_empty (v : Byte) : (s.setDeclaredLength v).empty = s.empty := rfl
@[simp] theorem setDeclaredLength_full (v : Byte) : (s.setDeclaredLength v).full = s.full := rfl
@[simp] theorem setDeclaredLength_count (v : Byte) : (s.setDeclaredLength v).count = s.count := rfl
@[simp] theorem setDeclaredLength_contents (v : Byte) : (s.setDeclaredLength v).contents = s.contents := rfl
@[simp] theorem setDeclaredLength_ctx (v : Byte) : (s.setDeclaredLength v).ctx = s.ctx := rfl
@[simp] theorem setDeclaredLength_queueIndex (v : Byte) (k : Nat) : (s.setDeclaredLength v).queueIndex k = s.queueIndex k := rfl

/-! setAcc -/

@[simp] theorem setAcc_cfg (v : Byte) : (s.setAcc v).cfg = s.cfg := rfl
@[simp] theorem setAcc_slot (v : Byte) : (s.setAcc v).slot = s.slot := rfl
@[simp] theorem setAcc_head (v : Byte) : (s.setAcc v).head = s.head := rfl
@[simp] theorem setAcc_tail (v : Byte) : (s.setAcc v).tail = s.tail := rfl
@[simp] theorem setAcc_pstate (v : Byte) : (s.setAcc v).pstate = s.pstate := rfl
@[simp] theorem setAcc_declaredLength (v : Byte) : (s.setAcc v).declaredLength = s.declaredLength := rfl
@[simp] theorem setAcc_acc (v : Byte) : (s.setAcc v).acc = v := rfl
@[simp] theorem setAcc_writeIndex (v : Byte) : (s.setAcc v).writeIndex = s.writeIndex := rfl
@[simp] theorem setAcc_payloadBuffer (v : Byte) : (s.setAcc v).payloadBuffer = s.payloadBuffer := rfl
@[simp] theorem setAcc_busy (v : Byte) : (s.setAcc v).busy = s.busy := rfl
@[simp] theorem setAcc_deliveries (v : Byte) : (s.setAcc v).deliveries = s.deliveries := rfl
@[simp] theorem setAcc_tx (v : Byte) : (s.setAcc v).tx = s.tx := rfl
@[simp] theorem setAcc_outcomes (v : Byte) : (s.setAcc v).outcomes = s.outcomes := rfl
@[simp] theorem setAcc_pending (v : Byte) : (s.setAcc v).pending = s.pending := rfl
@[simp] theorem setAcc_empty (v : Byte) : (s.setAcc v).empty = s.empty := rfl
@[simp] theorem setAcc_full (v : Byte) : (s.setAcc v).full = s.full := rfl
@[simp] theorem setAcc_count (v : Byte) : (s.setAcc v).count = s.count := rfl
@[simp] theorem setAcc_contents (v : Byte) : (s.setAcc v).contents = s.contents := rfl
@[simp] theorem setAcc_queueIndex (v : Byte) (k : Nat) : (s.setAcc v).queueIndex k = s.queueIndex k := rfl

/-! setWriteIndex -/

@[simp] theorem setWriteIndex_cfg (v : Nat) : (s.setWriteIndex v).cfg = s.cfg := rfl
@[simp] theorem setWriteIndex_slot (v : Nat) : (s.setWriteIndex v).slot = s.slot := rfl
@[simp] theorem setWriteIndex_head (v : Nat) : (s.setWriteIndex v).head = s.head := rfl
@[simp] theorem setWriteIndex_tail (v : Nat) : (s.setWriteIndex v).tail = s.tail := rfl
@[simp] theorem setWriteIndex_pstate (v : Nat) : (s.setWriteIndex v).pstate = s.pstate := rfl
@[simp] theorem setWriteIndex_declaredLength (v : Nat) : (s.setWriteIndex v).declaredLength = s.declaredLength := rfl
@[simp] theorem setWriteIndex_acc (v : Nat) : (s.setWriteIndex v).acc = s.acc := rfl
@[simp] theorem setWriteIndex_writeIndex (v : Nat) : (s.setWriteIndex v).writeIndex = v := rfl
@[simp] theorem setWriteIndex_payloadBuffer (v : Nat) : (s.setWriteIndex v).payloadBuffer = s.payloadBuffer := rfl
@[simp] theorem setWriteIndex_busy (v : Nat) : (s.setWriteIndex v).busy = s.busy := rfl
@[simp] theorem setWriteIndex_deliveries (v : Nat) : (s.setWriteIndex v).deliveries = s.deliveries := rfl
@[simp] theorem setWriteIndex_tx (v : Nat) : (s.setWriteIndex v).tx = s.tx := rfl
@[simp] theorem setWriteIndex_outcomes (v : Nat) : (s.setWriteIndex v).outcomes = s.outcomes := rfl
@[simp] theorem setWriteIndex_pending (v : Nat) : (s.setWriteIndex v).pending = s.pending := rfl
@[simp] theorem setWriteIndex_empty (v : Nat) : (s.setWriteIndex v).empty = s.empty := rfl
@[simp] theorem setWriteIndex_full (v : Nat) : (s.setWriteIndex v).full = s.full := rfl
@[simp] theorem setWriteIndex_count (v : Nat) : (s.setWriteIndex v).count = s.count := rfl
@[simp] theorem setWriteIndex_contents (v : Nat) : (s.setWriteIndex v).contents = s.contents := rfl
@[simp] theorem setWriteIndex_ctx (v : Nat) : (s.setWriteIndex v).ctx = s.ctx := rfl
@[simp] theorem setWriteIndex_queueIndex (v : Nat) (k : Nat) : (s.setWriteIndex v).queueIndex k = s.queueIndex k := rfl

/-! setPayloadBuffer -/

@[simp] theorem setPayloadBuffer_cfg (v : Memory) : (s.setPayloadBuffer v).cfg = s.cfg := rfl
@[simp] theorem setPayloadBuffer_slot (v : Memory) : (s.setPayloadBuffer v).slot = s.slot := rfl
@[simp] theorem setPayloadBuffer_head (v : Memory) : (s.setPayloadBuffer v).head = s.head := rfl
@[simp] theorem setPayloadBuffer_tail (v : Memory) : (s.setPayloadBuffer v).tail = s.tail := rfl
@[simp] theorem setPayloadBuffer_pstate (v : Memory) : (s.setPayloadBuffer v).pstate = s.pstate := rfl
@[simp] theorem setPayloadBuffer_declaredLength (v : Memory) : (s.setPayloadBuffer v).declaredLength = s.declaredLength := rfl
@[simp] theorem setPayloadBuffer_acc (v : Memory) : (s.setPayloadBuffer v).acc = s.acc := rfl
@[simp] theorem setPayloadBuffer_writeIndex (v : Memory) : (s.setPayloadBuffer v).writeIndex = s.writeIndex := rfl
@[simp] theorem setPayloadBuffer_payloadBuffer (v : Memory) : (s.setPayloadBuffer v).payloadBuffer = v := rfl
@[simp] theorem setPayloadBuffer_busy (v : Memory) : (s.setPayloadBuffer v).busy = s.busy := rfl
@[simp] theorem setPayloadBuffer_deliveries (v : Memory) : (s.setPayloadBuffer v).deliveries = s.deliveries := rfl
@[simp] theorem setPayloadBuffer_tx (v : Memory) : (s.setPayloadBuffer v).tx = s.tx := rfl
@[simp] theorem setPayloadBuffer_outcomes (v : Memory) : (s.setPayloadBuffer v).outcomes = s.outcomes := rfl
@[simp] theorem setPayloadBuffer_pending (v : Memory) : (s.setPayloadBuffer v).pending = s.pending := rfl
@[simp] theorem setPayloadBuffer_empty (v : Memory) : (s.setPayloadBuffer v).empty = s.empty := rfl
@[simp] theorem setPayloadBuffer_full (v : Memory) : (s.setPayloadBuffer v).full = s.full := rfl
@[simp] theorem setPayloadBuffer_count (v : Memory) : (s.setPayloadBuffer v).count = s.count := rfl
@[simp] theorem setPayloadBuffer_contents (v : Memory) : (s.setPayloadBuffer v).contents = s.contents := rfl
@[simp] theorem setPayloadBuffer_ctx (v : Memory) : (s.setPayloadBuffer v).ctx = s.ctx := rfl
@[simp] theorem setPayloadBuffer_queueIndex (v : Memory) (k : Nat) : (s.setPayloadBuffer v).queueIndex k = s.queueIndex k := rfl

/-! setBusy -/

@[simp] theorem setBusy_cfg (v : Bool) : (s.setBusy v).cfg = s.cfg := rfl
@[simp] theorem setBusy_slot (v : Bool) : (s.setBusy v).slot = s.slot := rfl
@[simp] theorem setBusy_head (v : Bool) : (s.setBusy v).head = s.head := rfl
@[simp] theorem setBusy_tail (v : Bool) : (s.setBusy v).tail = s.tail := rfl
@[simp] theorem setBusy_pstate (v : Bool) : (s.setBusy v).pstate = s.pstate := rfl
@[simp] theorem setBusy_declaredLength (v : Bool) : (s.setBusy v).declaredLength = s.declaredLength := rfl
@[simp] theorem setBusy_acc (v : Bool) : (s.setBusy v).acc = s.acc := rfl
@[simp] theorem setBusy_writeIndex (v : Bool) : (s.setBusy v).writeIndex = s.writeIndex := rfl
@[simp] theorem setBusy_payloadBuffer (v : Bool) : (s.setBusy v).payloadBuffer = s.payloadBuffer := rfl
@[simp] theorem setBusy_busy (v : Bool) : (s.setBusy v).busy = v := rfl
@[simp] theorem setBusy_deliveries (v : Bool) : (s.setBusy v).deliveries = s.deliveries := rfl
@[simp] theorem setBusy_tx (v : Bool) : (s.setBusy v).tx = s.tx := rfl
@[simp] theorem setBusy_outcomes (v : Bool) : (s.setBusy v).outcomes = s.outcomes := rfl
@[simp] theorem setBusy_pending (v : Bool) : (s.setBusy v).pending = s.pending := rfl
@[simp] theorem setBusy_empty (v : Bool) : (s.setBusy v).empty = s.empty := rfl
@[simp] theorem setBusy_full (v : Bool) : (s.setBusy v).full = s.full := rfl
@[simp] theorem setBusy_count (v : Bool) : (s.setBusy v).count = s.count := rfl
@[simp] theorem setBusy_contents (v : Bool) : (s.setBusy v).contents = s.contents := rfl
@[simp] theorem setBusy_ctx (v : Bool) : (s.setBusy v).ctx = s.ctx := rfl
@[simp] theorem setBusy_queueIndex (v : Bool) (k : Nat) : (s.setBusy v).queueIndex k = s.queueIndex k := rfl

/-! setDeliveries -/

@[simp] theorem setDeliveries_cfg (v : List Delivery) : (s.setDeliveries v).cfg = s.cfg := rfl
@[simp] theorem setDeliveries_slot (v : List Delivery) : (s.setDeliveries v).slot = s.slot := rfl
@[simp] theorem setDeliveries_head (v : List Delivery) : (s.setDeliveries v).head = s.head := rfl
@[simp] theorem setDeliveries_tail (v : List Delivery) : (s.setDeliveries v).tail = s.tail := rfl
@[simp] theorem setDeliveries_pstate (v : List Delivery) : (s.setDeliveries v).pstate = s.pstate := rfl
@[simp] theorem setDeliveries_declaredLength (v : List Delivery) : (s.setDeliveries v).declaredLength = s.declaredLength := rfl
@[simp] theorem setDeliveries_acc (v : List Delivery) : (s.setDeliveries v).acc = s.acc := rfl
@[simp] theorem setDeliveries_writeIndex (v : List Delivery) : (s.setDeliveries v).writeIndex = s.writeIndex := rfl
@[simp] theorem setDeliveries_payloadBuffer (v : List Delivery) : (s.setDeliveries v).payloadBuffer = s.payloadBuffer := rfl
@[simp] theorem setDeliveries_busy (v : List Delivery) : (s.setDeliveries v).busy = s.busy := rfl
@[simp] theorem setDeliveries_deliveries (v : List Delivery) : (s.setDeliveries v).deliveries = v := rfl
@[simp] theorem setDeliveries_tx (v : List Delivery) : (s.setDeliveries v).tx = s.tx := rfl
@[simp] theorem setDeliveries_outcomes (v : List Delivery) : (s.setDeliveries v).outcomes = s.outcomes := rfl
@[simp] theorem setDeliveries_pending (v : List Delivery) : (s.setDeliveries v).pending = s.pending := rfl
@[simp] theorem setDeliveries_empty (v : List Delivery) : (s.setDeliveries v).empty = s.empty := rfl
@[simp] theorem setDeliveries_full (v : List Delivery) : (s.setDeliveries v).full = s.full := rfl
@[simp] theorem setDeliveries_count (v : List Delivery) : (s.setDeliveries v).count = s.count := rfl
@[simp] theorem setDeliveries_contents (v : List Delivery) : (s.setDeliveries v).contents = s.contents := rfl
@[simp] theorem setDeliveries_ctx (v : List Delivery) : (s.setDeliveries v).ctx = s.ctx := rfl
@[simp] theorem setDeliveries_queueIndex (v : List Delivery) (k : Nat) : (s.setDeliveries v).queueIndex k = s.queueIndex k := rfl

/-! setTx -/

@[simp] theorem setTx_cfg (v : List (List Byte)) : (s.setTx v).cfg = s.cfg := rfl
@[simp] theorem setTx_slot (v : List (List Byte)) : (s.setTx v).slot = s.slot := rfl
@[simp] theorem setTx_head (v : List (List Byte)) : (s.setTx v).head = s.head := rfl
@[simp] theorem setTx_tail (v : List (List Byte)) : (s.setTx v).tail = s.tail := rfl
@[simp] theorem setTx_pstate (v : List (List Byte)) : (s.setTx v).pstate = s.pstate := rfl
@[simp] theorem setTx_declaredLength (v : List (List Byte)) : (s.setTx v).declaredLength = s.declaredLength := rfl
@[simp] theorem setTx_acc (v : List (List Byte)) : (s.setTx v).acc = s.acc := rfl
@[simp] theorem setTx_writeIndex (v : List (List Byte)) : (s.setTx v).writeIndex = s.writeIndex := rfl
@[simp] theorem setTx_payloadBuffer (v : List (List Byte)) : (s.setTx v).payloadBuffer = s.payloadBuffer := rfl
@[simp] theorem setTx_busy (v : List (List Byte)) : (s.setTx v).busy = s.busy := rfl
@[simp] theorem setTx_deliveries (v : List (List Byte)) : (s.setTx v).deliveries = s.deliveries := rfl
@[simp] theorem setTx_tx (v : List (List Byte)) : (s.setTx v).tx = v := rfl
@[simp] theorem setTx_outcomes (v : List (List Byte)) : (s.setTx v).outcomes = s.outcomes := rfl
@[simp] theorem setTx_pending (v : List (List Byte)) : (s.setTx v).pending = s.pending := rfl
@[simp] theorem setTx_empty (v : List (List Byte)) : (s.setTx v).empty = s.empty := rfl
@[simp] theorem setTx_full (v : List (List Byte)) : (s.setTx v).full = s.full := rfl
@[simp] theorem setTx_count (v : List (List Byte)) : (s.setTx v).count = s.count := rfl
@[simp] theorem setTx_contents (v : List (List Byte)) : (s.setTx v).contents = s.contents := rfl
@[simp] theorem setTx_ctx (v : List (List Byte)) : (s.setTx v).ctx = s.ctx := rfl
@[simp] theorem setTx_queueIndex (v : List (List Byte)) (k : Nat) : (s.setTx v).queueIndex k = s.queueIndex k := rfl

/-! setOutcomes -/

@[simp] theorem setOutcomes_cfg (v : List OpOutcome) : (s.setOutcomes v).cfg = s.cfg := rfl
@[simp] theorem setOutcomes_slot (v : List OpOutcome) : (s.setOutcomes v).slot = s.slot := rfl
@[simp] theorem setOutcomes_head (v : List OpOutcome) : (s.setOutcomes v).head = s.head := rfl
@[simp] theorem setOutcomes_tail (v : List OpOutcome) : (s.setOutcomes v).tail = s.tail := rfl
@[simp] theorem setOutcomes_pstate (v : List OpOutcome) : (s.setOutcomes v).pstate = s.pstate := rfl
@[simp] theorem setOutcomes_declaredLength (v : List OpOutcome) : (s.setOutcomes v).declaredLength = s.declaredLength := rfl
@[simp] theorem setOutcomes_acc (v : List OpOutcome) : (s.setOutcomes v).acc = s.acc := rfl
@[simp] theorem setOutcomes_writeIndex (v : List OpOutcome) : (s.setOutcomes v).writeIndex = s.writeIndex := rfl
@[simp] theorem setOutcomes_payloadBuffer (v : List OpOutcome) : (s.setOutcomes v).payloadBuffer = s.payloadBuffer := rfl
@[simp] theorem setOutcomes_busy (v : List OpOutcome) : (s.setOutcomes v).busy = s.busy := rfl
@[simp] theorem setOutcomes_deliveries (v : List OpOutcome) : (s.setOutcomes v).deliveries = s.deliveries := rfl
@[simp] theorem setOutcomes_tx (v : List OpOutcome) : (s.setOutcomes v).tx = s.tx := rfl
@[simp] theorem setOutcomes_outcomes (v : List OpOutcome) : (s.setOutcomes v).outcomes = v := rfl
@[simp] theorem setOutcomes_pending (v : List OpOutcome) : (s.setOutcomes v).pending = s.pending := rfl
@[simp] theorem setOutcomes_empty (v : List OpOutcome) : (s.setOutcomes v).empty = s.empty := rfl
@[simp] theorem setOutcomes_full (v : List OpOutcome) : (s.setOutcomes v).full = s.full := rfl
@[simp] theorem setOutcomes_count (v : List OpOutcome) : (s.setOutcomes v).count = s.count := rfl
@[simp] theorem setOutcomes_contents (v : List OpOutcome) : (s.setOutcomes v).contents = s.contents := rfl
@[simp] theorem setOutcomes_ctx (v : List OpOutcome) : (s.setOutcomes v).ctx = s.ctx := rfl
@[simp] theorem setOutcomes_queueIndex (v : List OpOutcome) (k : Nat) : (s.setOutcomes v).queueIndex k = s.queueIndex k := rfl

/-! setPending -/

@[simp] theorem setPending_cfg (v : List PortEvent) : (s.setPending v).cfg = s.cfg := rfl
@[simp] theorem setPending_slot (v : List PortEvent) : (s.setPending v).slot = s.slot := rfl
@[simp] theorem setPending_head (v : List PortEvent) : (s.setPending v).head = s.head := rfl
@[simp] theorem setPending_tail (v : List PortEvent) : (s.setPending v).tail = s.tail := rfl
@[simp] theorem setPending_pstate (v : List PortEvent) : (s.setPending v).pstate = s.pstate := rfl
@[simp] theorem setPending_declaredLength (v : List PortEvent) : (s.setPending v).declaredLength = s.declaredLength := rfl
@[simp] theorem setPending_acc (v : List PortEvent) : (s.setPending v).acc = s.acc := rfl
@[simp] theorem setPending_writeIndex (v : List PortEvent) : (s.setPending v).writeIndex = s.writeIndex := rfl
@[simp] theorem setPending_payloadBuffer (v : List PortEvent) : (s.setPending v).payloadBuffer = s.payloadBuffer := rfl
@[simp] theorem setPending_busy (v : List PortEvent) : (s.setPending v).busy = s.busy := rfl
@[simp] theorem setPending_deliveries (v : List PortEvent) : (s.setPending v).deliveries = s.deliveries := rfl
@[simp] theorem setPending_tx (v : List PortEvent) : (s.setPending v).tx = s.tx := rfl
@[simp] theorem setPending_outcomes (v : List PortEvent) : (s.setPending v).outcomes = s.outcomes := rfl
@[simp] theorem setPending_pending (v : List PortEvent) : (s.setPending v).pending = v := rfl
@[simp] theorem setPending_empty (v : List PortEvent) : (s.setPending v).empty = s.empty := rfl
@[simp] theorem setPending_full (v : List PortEvent) : (s.setPending v).full = s.full := rfl
@[simp] theorem setPending_count (v : List PortEvent) : (s.setPending v).count = s.count := rfl
@[simp] theorem setPending_contents (v : List PortEvent) : (s.setPending v).contents = s.contents := rfl
@[simp] theorem setPending_ctx (v : List PortEvent) : (s.setPending v).ctx = s.ctx := rfl
@[simp] theorem setPending_queueIndex (v : List PortEvent) (k : Nat) : (s.setPending v).queueIndex k = s.queueIndex k := rfl

/-! record -/

@[simp] theorem record_cfg (o : OpOutcome) : (s.record o).cfg = s.cfg := rfl
@[simp] theorem record_slot (o : OpOutcome) : (s.record o).slot = s.slot := rfl
@[simp] theorem record_head (o : OpOutcome) : (s.record o).head = s.head := rfl
@[simp] theorem record_tail (o : OpOutcome) : (s.record o).tail = s.tail := rfl
@[simp] theorem record_pstate (o : OpOutcome) : (s.record o).pstate = s.pstate := rfl
@[simp] theorem record_declaredLength (o : OpOutcome) : (s.record o).declaredLength = s.declaredLength := rfl
@[simp] theorem record_acc (o : OpOutcome) : (s.record o).acc = s.acc := rfl
@[simp] theorem record_writeIndex (o : OpOutcome) : (s.record o).writeIndex = s.writeIndex := rfl
@[simp] theorem record_payloadBuffer (o : OpOutcome) : (s.record o).payloadBuffer = s.payloadBuffer := rfl
@[simp] theorem record_busy (o : OpOutcome) : (s.record o).busy = s.busy := rfl
@[simp] theorem record_deliveries (o : OpOutcome) : (s.record o).deliveries = s.deliveries := rfl
@[simp] theorem record_tx (o : OpOutcome) : (s.record o).tx = s.tx := rfl
@[simp] theorem record_outcomes (o : OpOutcome) : (s.record o).outcomes = s.outcomes ++ [o] := rfl
@[simp] theorem record_pending (o : OpOutcome) : (s.record o).pending = s.pending := rfl
@[simp] theorem record_empty (o : OpOutcome) : (s.record o).empty = s.empty := rfl
@[simp] theorem record_full (o : OpOutcome) : (s.record o).full = s.full := rfl
@[simp] theorem record_count (o : OpOutcome) : (s.record o).count = s.count := rfl
@[simp] theorem record_contents (o : OpOutcome) : (s.record o).contents = s.contents := rfl
@[simp] theorem record_ctx (o : OpOutcome) : (s.record o).ctx = s.ctx := rfl
@[simp] theorem record_queueIndex (o : OpOutcome) (k : Nat) : (s.record o).queueIndex k = s.queueIndex k := rfl

/-! deliver -/

@[simp] theorem deliver_cfg (n : Nat) (p : List Byte) : (deliver n p s).cfg = s.cfg := rfl
@[simp] theorem deliver_slot (n : Nat) (p : List Byte) : (deliver n p s).slot = s.slot := rfl
@[simp] theorem deliver_head (n : Nat) (p : List Byte) : (deliver n p s).head = s.head := rfl
@[simp] theorem deliver_tail (n : Nat) (p : List Byte) : (deliver n p s).tail = s.tail := rfl
@[simp] theorem deliver_pstate (n : Nat) (p : List Byte) : (deliver n p s).pstate = s.pstate := rfl
@[simp] theorem deliver_declaredLength (n : Nat) (p : List Byte) : (deliver n p s).declaredLength = s.declaredLength := rfl
@[simp] theorem deliver_acc (n : Nat) (p : List Byte) : (deliver n p s).acc = s.acc := rfl
@[simp] theorem deliver_writeIndex (n : Nat) (p : List Byte) : (deliver n p s).writeIndex = s.writeIndex := rfl
@[simp] theorem deliver_payloadBuffer (n : Nat) (p : List Byte) : (deliver n p s).payloadBuffer = s.payloadBuffer := rfl
@[simp] theorem deliver_busy (n : Nat) (p : List Byte) : (deliver n p s).busy = s.busy := rfl
@[simp] theorem deliver_deliveries (n : Nat) (p : List Byte) : (deliver n p s).deliveries = s.deliveries ++ [{ n := n, payload := p }] := rfl
@[simp] theorem deliver_tx (n : Nat) (p : List Byte) : (deliver n p s).tx = s.tx := rfl
@[simp] theorem deliver_outcomes (n : Nat) (p : List Byte) : (deliver n p s).outcomes = s.outcomes := rfl
@[simp] theorem deliver_pending (n : Nat) (p : List Byte) : (deliver n p s).pending = s.pending := rfl
@[simp] theorem deliver_empty (n : Nat) (p : List Byte) : (deliver n p s).empty = s.empty := rfl
@[simp] theorem deliver_full (n : Nat) (p : List Byte) : (deliver n p s).full = s.full := rfl
@[simp] theorem deliver_count (n : Nat) (p : List Byte) : (deliver n p s).count = s.count := rfl
@[simp] theorem deliver_contents (n : Nat) (p : List Byte) : (deliver n p s).contents = s.contents := rfl
@[simp] theorem deliver_ctx (n : Nat) (p : List Byte) : (deliver n p s).ctx = s.ctx := rfl
@[simp] theorem deliver_queueIndex (n : Nat) (p : List Byte) (k : Nat) : (deliver n p s).queueIndex k = s.queueIndex k := rfl

/-! transmit -/

@[simp] theorem transmit_cfg (g : List Byte) : (transmit g s).cfg = s.cfg := rfl
@[simp] theorem transmit_slot (g : List Byte) : (transmit g s).slot = s.slot := rfl
@[simp] theorem transmit_head (g : List Byte) : (transmit g s).head = s.head := rfl
@[simp] theorem transmit_tail (g : List Byte) : (transmit g s).tail = s.tail := rfl
@[simp] theorem transmit_pstate (g : List Byte) : (transmit g s).pstate = s.pstate := rfl
@[simp] theorem transmit_declaredLength (g : List Byte) : (transmit g s).declaredLength = s.declaredLength := rfl
@[simp] theorem transmit_acc (g : List Byte) : (transmit g s).acc = s.acc := rfl
@[simp] theorem transmit_writeIndex (g : List Byte) : (transmit g s).writeIndex = s.writeIndex := rfl
@[simp] theorem transmit_payloadBuffer (g : List Byte) : (transmit g s).payloadBuffer = s.payloadBuffer := rfl
@[simp] theorem transmit_busy (g : List Byte) : (transmit g s).busy = s.busy := rfl
@[simp] theorem transmit_deliveries (g : List Byte) : (transmit g s).deliveries = s.deliveries := rfl
@[simp] theorem transmit_tx (g : List Byte) : (transmit g s).tx = s.tx ++ [g] := rfl
@[simp] theorem transmit_outcomes (g : List Byte) : (transmit g s).outcomes = s.outcomes := rfl
@[simp] theorem transmit_pending (g : List Byte) : (transmit g s).pending = s.pending := rfl
@[simp] theorem transmit_empty (g : List Byte) : (transmit g s).empty = s.empty := rfl
@[simp] theorem transmit_full (g : List Byte) : (transmit g s).full = s.full := rfl
@[simp] theorem transmit_count (g : List Byte) : (transmit g s).count = s.count := rfl
@[simp] theorem transmit_contents (g : List Byte) : (transmit g s).contents = s.contents := rfl
@[simp] theorem transmit_ctx (g : List Byte) : (transmit g s).ctx = s.ctx := rfl
@[simp] theorem transmit_queueIndex (g : List Byte) (k : Nat) : (transmit g s).queueIndex k = s.queueIndex k := rfl

/-! takeError -/

@[simp] theorem takeError_queueOverflow : takeError .queueOverflow s = s := rfl
@[simp] theorem takeError_emitSkipped : takeError .emitSkipped s = s := rfl
@[simp] theorem takeError_lengthViolation : takeError .lengthViolation s = s.setPstate .idle := rfl
@[simp] theorem takeError_checksumMismatch : takeError .checksumMismatch s = s.setPstate .idle := rfl

/-! Two states with the same fields are equal. -/

theorem State.ext_fields {s t : State} (h1 : s.cfg = t.cfg) (h2 : s.slot = t.slot) (h3 : s.head = t.head) (h4 : s.tail = t.tail)
    (h5 : s.pstate = t.pstate) (h6 : s.declaredLength = t.declaredLength) (h7 : s.acc = t.acc) (h8 : s.writeIndex = t.writeIndex)
    (h9 : s.payloadBuffer = t.payloadBuffer) (h10 : s.busy = t.busy) (h11 : s.deliveries = t.deliveries) (h12 : s.tx = t.tx)
    (h13 : s.outcomes = t.outcomes) (h14 : s.pending = t.pending) : s = t := by
  cases s; cases t; simp_all

end Sys2Proof.Machine
end

