-- ==== Sys2Proof/Laws/Memory.lean ====
section
/-! SUPPORT. The laws of the two byte memories: read after write, the frame of a write, the canonical form. -/

namespace Sys2Proof.Machine

@[simp] theorem Memory.read_nil (a : Nat) : Memory.read [] a = none := rfl

@[simp] theorem Memory.read_write_same (m : Memory) (a : Nat) (b : Byte) : Memory.read (Memory.write m a b) a = some b := by
  induction m with
  | nil => simp [Memory.write, Memory.read]
  | cons x rest ih =>
    obtain ⟨k, v⟩ := x
    simp only [Memory.write]
    split
    · simp [Memory.read]
    · split
      · simp [Memory.read]
      · simp_all [Memory.read, eq_comm]

theorem Memory.read_write_other (m : Memory) {a i : Nat} (b : Byte) (h : i ≠ a) :
    Memory.read (Memory.write m a b) i = Memory.read m i := by
  induction m with
  | nil => simp [Memory.write, Memory.read, h.symm]
  | cons x rest ih =>
    obtain ⟨k, v⟩ := x
    simp only [Memory.write]
    split
    · simp [Memory.read, h.symm]
    · split
      · rename_i _ hk; subst hk; simp [Memory.read, h.symm]
      · simp only [Memory.read, ih]

theorem Memory.read_write (m : Memory) (a i : Nat) (b : Byte) :
    Memory.read (Memory.write m a b) i = if i = a then some b else Memory.read m i := by
  by_cases h : i = a
  · subst h; simp
  · simp [h, Memory.read_write_other m b h]

/-- The first index of a memory is below every other. -/
theorem Memory.wf_cons {a : Nat} {v : Byte} {rest : Memory} :
    Memory.wf ((a, v) :: rest) = true ↔ Memory.wf rest = true ∧ ∀ x, x ∈ rest → a < x.1 := by
  induction rest generalizing a v with
  | nil => simp [Memory.wf]
  | cons y rest ih =>
    obtain ⟨k, w⟩ := y
    simp only [Memory.wf, Bool.and_eq_true, decide_eq_true_eq, List.mem_cons, forall_eq_or_imp]
    constructor
    · rintro ⟨hak, hr⟩
      exact ⟨hr, hak, fun x hx => lt_trans hak ((ih.mp hr).2 x hx)⟩
    · rintro ⟨hr, hak, -⟩
      exact ⟨hak, hr⟩

theorem Memory.mem_write {m : Memory} {a : Nat} {b : Byte} {x : Host.Cell} (h : x ∈ Memory.write m a b) :
    x = (a, b) ∨ x ∈ m := by
  induction m with
  | nil => simpa [Memory.write] using h
  | cons y rest ih =>
    obtain ⟨k, v⟩ := y
    simp only [Memory.write] at h
    split at h
    · simpa using h
    · split at h
      · simp only [List.mem_cons] at h ⊢; tauto
      · simp only [List.mem_cons] at h ⊢
        rcases h with h | h
        · exact .inr (.inl h)
        · rcases ih h with h | h <;> tauto

/-- A write keeps the canonical form. -/
theorem Memory.wf_write {m : Memory} (a : Nat) (b : Byte) (h : Memory.wf m = true) : Memory.wf (Memory.write m a b) = true := by
  induction m with
  | nil => rfl
  | cons y rest ih =>
    obtain ⟨k, v⟩ := y
    have hk := Memory.wf_cons.mp h
    simp only [Memory.write]
    split
    · rename_i hlt
      refine Memory.wf_cons.mpr ⟨h, fun x hx => ?_⟩
      rcases List.mem_cons.mp hx with rfl | hx
      · exact hlt
      · exact lt_trans hlt (hk.2 x hx)
    · split
      · rename_i _ heq; subst heq
        exact Memory.wf_cons.mpr hk
      · rename_i hlt hne
        refine Memory.wf_cons.mpr ⟨ih hk.1, fun x hx => ?_⟩
        rcases Memory.mem_write hx with rfl | hx
        · show k < a; omega
        · exact hk.2 x hx

/-- Reset memory has the canonical form. -/
theorem Memory.wf_reset (c : Config) :
    Memory.wf (State.resetWith c).slot = true ∧ Memory.wf (State.resetWith c).payloadBuffer = true := ⟨rfl, rfl⟩

/-- A byte that is read is listed. -/
theorem Memory.mem_of_read {m : Memory} {a : Nat} {b : Byte} (h : Memory.read m a = some b) : (a, b) ∈ m := by
  induction m with
  | nil => cases h
  | cons x rest ih =>
    simp only [Memory.read] at h
    split at h
    · rename_i e; cases h; subst e; exact List.mem_cons_self
    · exact List.mem_cons_of_mem _ (ih h)

/-! Ranges -/

@[simp] theorem Memory.readRange_zero (m : Memory) (i : Nat) : Memory.readRange m i 0 = some [] := rfl

/-- What a range read gives: the length asked for, and at each place the byte there. -/
theorem Memory.readRange_eq_some {m : Memory} {i len : Nat} {p : List Byte} :
    Memory.readRange m i len = some p ↔ p.length = len ∧ ∀ k, k < len → Memory.read m (i + k) = p[k]? := by
  induction len generalizing i p with
  | zero => cases p <;> simp [Memory.readRange]
  | succ n ih =>
    simp only [Memory.readRange]
    constructor
    · intro h
      split at h
      · rename_i b bs hb hbs
        cases h
        obtain ⟨hl, hk⟩ := ih.mp hbs
        refine ⟨by simp [hl], fun k hkn => ?_⟩
        cases k with
        | zero => simpa using hb
        | succ k =>
          have := hk k (by omega)
          rw [show i + (k + 1) = i + 1 + k by omega, this]; simp
      · simp at h
    · rintro ⟨hl, hk⟩
      cases p with
      | nil => simp at hl
      | cons b bs =>
        have h0 : Memory.read m i = some b := by simpa using hk 0 (by omega)
        have hr : Memory.readRange m (i + 1) n = some bs := by
          refine ih.mpr ⟨by simpa using hl, fun k hkn => ?_⟩
          have := hk (k + 1) (by omega)
          rw [show i + 1 + k = i + (k + 1) by omega, this]; simp
        simp [h0, hr]

/-- A write outside a range leaves the range's bytes. -/
theorem Memory.readRange_write_outside (m : Memory) {a i len : Nat} (b : Byte) (h : a < i ∨ i + len ≤ a) :
    Memory.readRange (Memory.write m a b) i len = Memory.readRange m i len := by
  induction len generalizing i with
  | zero => rfl
  | succ n ih =>
    simp only [Memory.readRange]
    rw [Memory.read_write_other m b (by omega), ih (by omega)]

/-- A range grows by the byte at its end. -/
theorem Memory.readRange_succ_last {m : Memory} {i len : Nat} {p : List Byte} {b : Byte}
    (hp : Memory.readRange m i len = some p) (hb : Memory.read m (i + len) = some b) :
    Memory.readRange m i (len + 1) = some (p ++ [b]) := by
  obtain ⟨hl, hk⟩ := Memory.readRange_eq_some.mp hp
  refine Memory.readRange_eq_some.mpr ⟨by simp [hl], fun k hkn => ?_⟩
  by_cases h : k < len
  · rw [hk k h, List.getElem?_append_left (by omega)]
  · have : k = len := by omega
    subst this
    rw [hb, List.getElem?_append_right (by omega)]
    simp [hl]

theorem Memory.readRange_length {m : Memory} {i len : Nat} {p : List Byte} (h : Memory.readRange m i len = some p) :
    p.length = len := (Memory.readRange_eq_some.mp h).1

end Sys2Proof.Machine
end

