-- ==== Sys2Proof/Laws/Queue.lean ====
section
/-! SUPPORT. The queue: cursor arithmetic, what ENQ and DEQ can do, the abstract contents (10_state.md R17, R18, 40_bytequeue.md). -/

namespace Sys2Proof.Machine

/-! Cursors -/

theorem advance_lt {n : Nat} (c : Nat) (h : 0 < n) : advance n c < n := by
  unfold advance; split <;> omega

theorem advance_eq_mod {n c : Nat} (h : c < n) : advance n c = (c + 1) % n := by
  unfold advance
  split
  · rw [Nat.mod_eq_of_lt ‹_›]
  · rw [show c + 1 = n by omega, Nat.mod_self]

theorem wrapAdd_lt {n c k : Nat} (hc : c < n) (hk : k < n) : wrapAdd n c k < n := by
  unfold wrapAdd; split <;> omega

@[simp] theorem wrapAdd_zero {n c : Nat} (h : c < n) : wrapAdd n c 0 = c := by
  unfold wrapAdd; simp [h]

theorem wrapAdd_advance {n c k : Nat} (hc : c < n) (hk : k + 1 < n) : wrapAdd n (advance n c) k = wrapAdd n c (k + 1) := by
  unfold wrapAdd advance; split <;> split <;> split <;> omega

theorem advance_wrapAdd {n c k : Nat} (hc : c < n) (hk : k + 1 < n) : advance n (wrapAdd n c k) = wrapAdd n c (k + 1) := by
  unfold wrapAdd advance; split <;> split <;> split <;> omega

theorem wrapAdd_inj {n c j k : Nat} (hj : j < n) (hk : k < n) (h : wrapAdd n c j = wrapAdd n c k) : j = k := by
  unfold wrapAdd at h; split at h <;> split at h <;> omega

/-! The computed conditions -/

variable {s : State}

theorem count_lt (hh : s.head < s.cfg.n) (ht : s.tail < s.cfg.n) : s.count < s.cfg.n := by
  unfold State.count; split <;> omega

theorem head_eq (hh : s.head < s.cfg.n) (ht : s.tail < s.cfg.n) : s.head = wrapAdd s.cfg.n s.tail s.count := by
  unfold State.count wrapAdd; split <;> split <;> omega

theorem empty_iff_count (ht : s.tail < s.cfg.n) : s.empty = true ↔ s.count = 0 := by
  unfold State.empty State.count; simp only [decide_eq_true_eq]; split <;> omega

theorem full_iff_count (hh : s.head < s.cfg.n) (ht : s.tail < s.cfg.n) (hn : 2 ≤ s.cfg.n) :
    s.full = true ↔ s.count = s.cfg.n - 1 := by
  unfold State.full State.count advance; simp only [decide_eq_true_eq]; split <;> split <;> omega

/-! Memory accesses of the queue -/

theorem readSlot_ok {i : Nat} {b : Byte} (hi : i < s.cfg.n) (h : Memory.read s.slot i = some b) : readSlot i s = .ok b := by
  simp [readSlot, hi, h]

/-- Where a slot access stops (log 5, 6). -/
theorem readSlot_unwritten {i : Nat} (hi : i < s.cfg.n) (h : Memory.read s.slot i = none) : readSlot i s = .error .slotUnwritten := by
  simp [readSlot, hi, h]

theorem readSlot_outside {i : Nat} (hi : s.cfg.n ≤ i) : readSlot i s = .error .slotOutOfRange := by
  simp [readSlot, Nat.not_lt.mpr hi]

theorem writeSlot_outside {i : Nat} (b : Byte) (hi : s.cfg.n ≤ i) : writeSlot i b s = .error .slotOutOfRange := by
  simp [writeSlot, Nat.not_lt.mpr hi]

theorem readSlot_eq_ok {i : Nat} {b : Byte} (h : readSlot i s = .ok b) : i < s.cfg.n ∧ Memory.read s.slot i = some b := by
  unfold readSlot at h
  split at h
  · split at h
    · cases h; exact ⟨‹_›, ‹_›⟩
    · cases h
  · cases h

theorem writeSlot_ok {i : Nat} (b : Byte) (hi : i < s.cfg.n) :
    writeSlot i b s = .ok (s.setSlot (Memory.write s.slot i b)) := by
  simp [writeSlot, hi]

/-! ENQ -/

theorem enqueue_full (b : Byte) (h : s.full = true) : enqueue b s = .ok (.dropped b, s) := by
  simp [enqueue, h]

theorem enqueue_room (b : Byte) (h : s.full = false) (hi : s.head < s.cfg.n) :
    enqueue b s = .ok (.stored b, (s.setSlot (Memory.write s.slot s.head b)).setHead (advance s.cfg.n s.head)) := by
  simp [enqueue, h, writeSlot_ok b hi]

/-- Everything ENQ can do. -/
theorem enqueue_cases {b : Byte} {o : OpOutcome} {t : State} (h : enqueue b s = .ok (o, t)) :
    (s.full = true ∧ o = .dropped b ∧ t = s) ∨
      (s.full = false ∧ s.head < s.cfg.n ∧ o = .stored b ∧
        t = (s.setSlot (Memory.write s.slot s.head b)).setHead (advance s.cfg.n s.head)) := by
  cases hf : s.full
  · by_cases hi : s.head < s.cfg.n
    · rw [enqueue_room b hf hi] at h
      cases h; exact .inr ⟨rfl, hi, rfl, rfl⟩
    · simp [enqueue, hf, writeSlot, hi] at h
  · rw [enqueue_full b hf] at h
    cases h; exact .inl ⟨rfl, rfl, rfl⟩

/-! DEQ -/

theorem dequeue_empty (h : s.empty = true) : dequeue s = .ok (none, s) := by
  simp [dequeue, h]

theorem dequeue_some {b : Byte} (h : s.empty = false) (hi : s.tail < s.cfg.n) (hb : Memory.read s.slot s.tail = some b) :
    dequeue s = .ok (some b, s.setTail (advance s.cfg.n s.tail)) := by
  simp [dequeue, h, readSlot_ok hi hb]

/-- Everything DEQ can do. -/
theorem dequeue_cases {r : Option Byte} {t : State} (h : dequeue s = .ok (r, t)) :
    (s.empty = true ∧ r = none ∧ t = s) ∨
      (∃ b, s.empty = false ∧ s.tail < s.cfg.n ∧ Memory.read s.slot s.tail = some b ∧ r = some b ∧
        t = s.setTail (advance s.cfg.n s.tail)) := by
  unfold dequeue at h
  split at h
  · cases h; exact .inl ⟨‹_›, rfl, rfl⟩
  · rename_i he
    split at h
    · rename_i b hb
      cases h
      obtain ⟨hi, hr⟩ := readSlot_eq_ok hb
      exact .inr ⟨b, by simpa using he, hi, hr, rfl, rfl⟩
    · cases h

/-! The contents -/

theorem contents_length (q : QueueInv s) : s.contents.length = s.count := by
  unfold State.contents
  have : ∀ l : List Nat, (∀ k ∈ l, k < s.count) → (l.filterMap fun k => Memory.read s.slot (s.queueIndex k)).length = l.length := by
    intro l hl
    induction l with
    | nil => rfl
    | cons k l ih =>
      obtain ⟨b, hb⟩ := q.written k (hl k (by simp))
      simp [hb, ih fun j hj => hl j (by simp [hj])]
  rw [this _ fun k hk => List.mem_range.mp hk, List.length_range]

/-- The first byte of a non-empty queue stands at `tail`, and the others follow from the advanced cursor. -/
theorem contents_cons (q : QueueInv s) {b : Byte} (hb : Memory.read s.slot s.tail = some b) (he : s.empty = false) :
    s.contents = b :: (s.setTail (advance s.cfg.n s.tail)).contents := by
  have hc : s.count ≠ 0 := by
    intro h; rw [(empty_iff_count q.tail_lt).mpr h] at he; cases he
  have hlt := count_lt q.head_lt q.tail_lt
  have hcount : s.count = (s.setTail (advance s.cfg.n s.tail)).count + 1 := by
    have h1 := q.head_lt; have h2 := q.tail_lt
    revert hc; unfold State.count advance; simp only [setTail_head, setTail_tail, setTail_cfg]
    split <;> split <;> split <;> omega
  unfold State.contents
  rw [hcount, List.range_succ_eq_map, List.filterMap_cons]
  simp only [State.queueIndex, wrapAdd_zero q.tail_lt, hb, List.filterMap_map, setTail_slot, setTail_tail, setTail_cfg]
  congr 1
  apply List.filterMap_congr
  intro k hk
  rw [List.mem_range] at hk
  simp only [Function.comp]
  rw [wrapAdd_advance q.tail_lt (by omega)]

theorem contents_nil (h : s.count = 0) : s.contents = [] := by
  simp [State.contents, h]

/-- Storing a byte appends it to the contents. -/
theorem contents_store (q : QueueInv s) (hn : 2 ≤ s.cfg.n) (b : Byte) (hf : s.full = false) :
    ((s.setSlot (Memory.write s.slot s.head b)).setHead (advance s.cfg.n s.head)).contents = s.contents ++ [b] := by
  have hlt := count_lt q.head_lt q.tail_lt
  have hnf : s.count ≠ s.cfg.n - 1 := by
    intro h; rw [(full_iff_count q.head_lt q.tail_lt hn).mpr h] at hf; cases hf
  have hcount : ((s.setSlot (Memory.write s.slot s.head b)).setHead (advance s.cfg.n s.head)).count = s.count + 1 := by
    have h1 := q.head_lt; have h2 := q.tail_lt
    revert hnf; unfold State.count advance
    simp only [setHead_head, setHead_tail, setHead_cfg, setSlot_tail, setSlot_cfg]
    split <;> split <;> split <;> omega
  unfold State.contents
  rw [hcount, List.range_succ, List.filterMap_append]
  simp only [State.queueIndex, setHead_slot, setHead_tail, setHead_cfg, setSlot_slot, setSlot_tail, setSlot_cfg]
  congr 1
  · apply List.filterMap_congr
    intro k hk
    rw [List.mem_range] at hk
    apply Memory.read_write_other
    rw [head_eq q.head_lt q.tail_lt]
    intro h
    have := wrapAdd_inj (by omega) hlt h
    omega
  · rw [List.filterMap_cons, ← head_eq q.head_lt q.tail_lt]
    simp

end Sys2Proof.Machine
end

