-- ==== Sys2Proof/Laws/Parser.lean ====
section
/-! SUPPORT. What a byte in front of the parser can do (41_frameparser.md R78 to R87), and what POLL and SEND can do. -/

namespace Sys2Proof.Machine

variable {s t : State} {b : Byte}

/-! Accesses to the payload buffer -/

theorem writePayload_ok {i : Nat} (b : Byte) (hi : i < s.cfg.maxPayload) :
    writePayload i b s = .ok (s.setPayloadBuffer (Memory.write s.payloadBuffer i b)) := by
  simp [writePayload, hi]

theorem writePayload_eq_ok {i : Nat} (h : writePayload i b s = .ok t) :
    i < s.cfg.maxPayload ∧ t = s.setPayloadBuffer (Memory.write s.payloadBuffer i b) := by
  unfold writePayload at h
  split at h
  · cases h; exact ⟨‹_›, rfl⟩
  · cases h

theorem readPayload_ok {len : Nat} {p : List Byte} (h : Memory.readRange s.payloadBuffer 0 len = some p) :
    readPayload len s = .ok p := by
  simp [readPayload, h]

/-- Where a payload buffer access stops (log 5, 6). -/
theorem writePayload_outside {i : Nat} (b : Byte) (hi : s.cfg.maxPayload ≤ i) : writePayload i b s = .error .payloadOutOfRange := by
  simp [writePayload, Nat.not_lt.mpr hi]

theorem readPayload_unwritten {len : Nat} (h : Memory.readRange s.payloadBuffer 0 len = none) :
    readPayload len s = .error .payloadUnwritten := by
  simp [readPayload, h]

theorem readPayload_eq_ok {len : Nat} {p : List Byte} (h : readPayload len s = .ok p) :
    Memory.readRange s.payloadBuffer 0 len = some p := by
  unfold readPayload at h
  split at h
  · cases h; assumption
  · cases h

/-! The effect of each class -/

/-- The state after a payload byte. -/
def afterPayload (b : Byte) (s : State) : State :=
  let s2 := ((s.setPayloadBuffer (Memory.write s.payloadBuffer s.writeIndex b)).setAcc (addByte s.acc b)).setWriteIndex (s.writeIndex + 1)
  if s.writeIndex + 1 = s.declaredLength.toNat then s2.setPstate .checksumExpected else s2

/-- The state after a matching checksum byte that delivers `p`. -/
def afterDelivery (p : List Byte) (s : State) : State :=
  (deliver s.declaredLength.toNat p
    (s.setPayloadBuffer (Memory.write s.payloadBuffer s.declaredLength.toNat term))).setPstate .idle

theorem onPayload_ok (hi : s.writeIndex < s.cfg.maxPayload) : onPayload b s = .ok (afterPayload b s) := by
  simp [onPayload, writePayload_ok b hi, afterPayload]

theorem onPayload_eq_ok (h : onPayload b s = .ok t) : s.writeIndex < s.cfg.maxPayload ∧ t = afterPayload b s := by
  by_cases hi : s.writeIndex < s.cfg.maxPayload
  · rw [onPayload_ok hi] at h
    cases h; exact ⟨hi, rfl⟩
  · simp [onPayload, writePayload, hi] at h

theorem onCsumOk_ok {p : List Byte} (hi : s.declaredLength.toNat < s.cfg.maxPayload)
    (hp : Memory.readRange s.payloadBuffer 0 s.declaredLength.toNat = some p) : onCsumOk s = .ok (afterDelivery p s) := by
  have hr : readPayload s.declaredLength.toNat
      (s.setPayloadBuffer (Memory.write s.payloadBuffer s.declaredLength.toNat term)) = .ok p := by
    apply readPayload_ok
    simp only [setPayloadBuffer_payloadBuffer]
    rw [Memory.readRange_write_outside _ _ (by omega), hp]
  simp [onCsumOk, writePayload_ok term hi, hr, afterDelivery]

theorem onCsumOk_eq_ok (h : onCsumOk s = .ok t) :
    ∃ p, s.declaredLength.toNat < s.cfg.maxPayload ∧
      Memory.readRange s.payloadBuffer 0 s.declaredLength.toNat = some p ∧ t = afterDelivery p s := by
  unfold onCsumOk at h
  split at h
  · rename_i s1 hw
    obtain ⟨hi, rfl⟩ := writePayload_eq_ok hw
    split at h
    · rename_i p hp
      cases h
      have hp := readPayload_eq_ok hp
      simp only [setPayloadBuffer_payloadBuffer] at hp
      rw [Memory.readRange_write_outside _ _ (by omega)] at hp
      exact ⟨p, hi, hp, rfl⟩
    · cases h
  · cases h

/-- Everything a byte can do, with what selects it: one case per class of R58. -/
theorem feedByte_cases {k : ByteClass} (h : feedByte b s = .ok (k, t)) :
    (s.pstate = .idle ∧ b = sof ∧ k = .idleSof ∧ t = s.setPstate .lengthExpected) ∨
    (s.pstate = .idle ∧ b ≠ sof ∧ k = .idleSkip ∧ t = s) ∨
    (s.pstate = .lengthExpected ∧ (0 < b.toNat ∧ b.toNat < s.cfg.maxPayload) ∧ k = .lenOk ∧
      t = (((s.setDeclaredLength b).setAcc 0).setWriteIndex 0).setPstate .payloadAccumulating) ∨
    (s.pstate = .lengthExpected ∧ ¬ (0 < b.toNat ∧ b.toNat < s.cfg.maxPayload) ∧ k = .lenBad ∧ t = s.setPstate .idle) ∨
    (s.pstate = .payloadAccumulating ∧ s.writeIndex < s.cfg.maxPayload ∧ k = .payload ∧ t = afterPayload b s) ∨
    (s.pstate = .checksumExpected ∧ b ≠ s.acc ∧ k = .csumBad ∧ t = s.setPstate .idle) ∨
    (∃ p, s.pstate = .checksumExpected ∧ b = s.acc ∧ k = .csumOk ∧ s.declaredLength.toNat < s.cfg.maxPayload ∧
      Memory.readRange s.payloadBuffer 0 s.declaredLength.toNat = some p ∧ t = afterDelivery p s) := by
  unfold feedByte at h
  split at h
  case h_2 => cases h
  rename_i s1 ha
  cases h
  cases hp : s.pstate
  · by_cases hb : b = sof
    · have hk : classify s.ctx b = .idleSof := by simp [classify, State.ctx, hp, hb]
      rw [hk] at ha ⊢; cases ha
      exact .inl ⟨rfl, hb, rfl, rfl⟩
    · have hk : classify s.ctx b = .idleSkip := by simp [classify, State.ctx, hp, hb]
      rw [hk] at ha ⊢; cases ha
      exact .inr (.inl ⟨rfl, hb, rfl, rfl⟩)
  · by_cases hb : lengthInRange s.cfg.maxPayload b.toNat = true
    · have hk : classify s.ctx b = .lenOk := by simp [classify, State.ctx, hp, hb]
      rw [hk] at ha ⊢; cases ha
      exact .inr (.inr (.inl ⟨rfl, lengthInRange_iff.mp hb, rfl, rfl⟩))
    · have hk : classify s.ctx b = .lenBad := by simp [classify, State.ctx, hp, hb]
      rw [hk] at ha ⊢; cases ha
      exact .inr (.inr (.inr (.inl ⟨rfl, fun h => hb (lengthInRange_iff.mpr h), rfl, rfl⟩)))
  · have hk : classify s.ctx b = .payload := by simp [classify, State.ctx, hp]
    rw [hk] at ha ⊢
    obtain ⟨hi, rfl⟩ := onPayload_eq_ok ha
    exact .inr (.inr (.inr (.inr (.inl ⟨rfl, hi, rfl, rfl⟩))))
  · by_cases hb : b = s.acc
    · have hk : classify s.ctx b = .csumOk := by simp [classify, State.ctx, hp, hb]
      rw [hk] at ha ⊢
      obtain ⟨p, hi, hr, rfl⟩ := onCsumOk_eq_ok ha
      exact .inr (.inr (.inr (.inr (.inr (.inr ⟨p, rfl, hb, rfl, hi, hr, rfl⟩)))))
    · have hk : classify s.ctx b = .csumBad := by simp [classify, State.ctx, hp, hb]
      rw [hk] at ha ⊢; cases ha
      exact .inr (.inr (.inr (.inr (.inr (.inl ⟨rfl, hb, rfl, rfl⟩)))))

/-! One equation per class: when it applies, and what it leaves. -/

theorem feedByte_idleSof (h : s.pstate = .idle) : feedByte sof s = .ok (.idleSof, s.setPstate .lengthExpected) := by
  simp [feedByte, classify, State.ctx, h, applyClass, onIdleSof]

theorem feedByte_idleSkip (h : s.pstate = .idle) (hb : b ≠ sof) : feedByte b s = .ok (.idleSkip, s) := by
  simp [feedByte, classify, State.ctx, h, hb, applyClass, onIdleSkip]

theorem feedByte_lenOk (h : s.pstate = .lengthExpected) (hb : 0 < b.toNat ∧ b.toNat < s.cfg.maxPayload) :
    feedByte b s = .ok (.lenOk, (((s.setDeclaredLength b).setAcc 0).setWriteIndex 0).setPstate .payloadAccumulating) := by
  simp [feedByte, classify, State.ctx, h, lengthInRange, hb.1, hb.2, applyClass, onLenOk]

theorem feedByte_lenBad (h : s.pstate = .lengthExpected) (hb : ¬ (0 < b.toNat ∧ b.toNat < s.cfg.maxPayload)) :
    feedByte b s = .ok (.lenBad, s.setPstate .idle) := by
  have : lengthInRange s.cfg.maxPayload b.toNat = false := by
    rw [← Bool.not_eq_true]; exact fun h => hb (lengthInRange_iff.mp h)
  simp [feedByte, classify, State.ctx, h, this, applyClass, onLenBad]

theorem feedByte_payload (h : s.pstate = .payloadAccumulating) (hi : s.writeIndex < s.cfg.maxPayload) :
    feedByte b s = .ok (.payload, afterPayload b s) := by
  simp [feedByte, classify, State.ctx, h, applyClass, onPayload_ok hi]

theorem feedByte_csumBad (h : s.pstate = .checksumExpected) (hb : b ≠ s.acc) :
    feedByte b s = .ok (.csumBad, s.setPstate .idle) := by
  simp [feedByte, classify, State.ctx, h, hb, applyClass, onCsumBad]

theorem feedByte_csumOk {p : List Byte} (h : s.pstate = .checksumExpected) (hi : s.declaredLength.toNat < s.cfg.maxPayload)
    (hp : Memory.readRange s.payloadBuffer 0 s.declaredLength.toNat = some p) :
    feedByte s.acc s = .ok (.csumOk, afterDelivery p s) := by
  simp [feedByte, classify, State.ctx, h, applyClass, onCsumOk_ok hi hp]

/-! Fields of the two states named above -/

theorem afterPayload_pstate (b : Byte) (s : State) : (afterPayload b s).pstate =
    if s.writeIndex + 1 = s.declaredLength.toNat then .checksumExpected else s.pstate := by
  unfold afterPayload; split <;> simp

@[simp] theorem afterPayload_cfg (b : Byte) (s : State) : (afterPayload b s).cfg = s.cfg := by unfold afterPayload; split <;> rfl
@[simp] theorem afterPayload_slot (b : Byte) (s : State) : (afterPayload b s).slot = s.slot := by unfold afterPayload; split <;> rfl
@[simp] theorem afterPayload_head (b : Byte) (s : State) : (afterPayload b s).head = s.head := by unfold afterPayload; split <;> rfl
@[simp] theorem afterPayload_tail (b : Byte) (s : State) : (afterPayload b s).tail = s.tail := by unfold afterPayload; split <;> rfl
@[simp] theorem afterPayload_declaredLength (b : Byte) (s : State) : (afterPayload b s).declaredLength = s.declaredLength := by
  unfold afterPayload; split <;> rfl
@[simp] theorem afterPayload_acc (b : Byte) (s : State) : (afterPayload b s).acc = addByte s.acc b := by unfold afterPayload; split <;> rfl
@[simp] theorem afterPayload_writeIndex (b : Byte) (s : State) : (afterPayload b s).writeIndex = s.writeIndex + 1 := by
  unfold afterPayload; split <;> rfl
@[simp] theorem afterPayload_payloadBuffer (b : Byte) (s : State) :
    (afterPayload b s).payloadBuffer = Memory.write s.payloadBuffer s.writeIndex b := by unfold afterPayload; split <;> rfl
@[simp] theorem afterPayload_busy (b : Byte) (s : State) : (afterPayload b s).busy = s.busy := by unfold afterPayload; split <;> rfl
@[simp] theorem afterPayload_deliveries (b : Byte) (s : State) : (afterPayload b s).deliveries = s.deliveries := by
  unfold afterPayload; split <;> rfl
@[simp] theorem afterPayload_tx (b : Byte) (s : State) : (afterPayload b s).tx = s.tx := by unfold afterPayload; split <;> rfl
@[simp] theorem afterPayload_outcomes (b : Byte) (s : State) : (afterPayload b s).outcomes = s.outcomes := by
  unfold afterPayload; split <;> rfl
@[simp] theorem afterPayload_pending (b : Byte) (s : State) : (afterPayload b s).pending = s.pending := by
  unfold afterPayload; split <;> rfl

@[simp] theorem afterDelivery_cfg (p : List Byte) (s : State) : (afterDelivery p s).cfg = s.cfg := rfl
@[simp] theorem afterDelivery_slot (p : List Byte) (s : State) : (afterDelivery p s).slot = s.slot := rfl
@[simp] theorem afterDelivery_head (p : List Byte) (s : State) : (afterDelivery p s).head = s.head := rfl
@[simp] theorem afterDelivery_tail (p : List Byte) (s : State) : (afterDelivery p s).tail = s.tail := rfl
@[simp] theorem afterDelivery_pstate (p : List Byte) (s : State) : (afterDelivery p s).pstate = .idle := rfl
@[simp] theorem afterDelivery_declaredLength (p : List Byte) (s : State) : (afterDelivery p s).declaredLength = s.declaredLength := rfl
@[simp] theorem afterDelivery_acc (p : List Byte) (s : State) : (afterDelivery p s).acc = s.acc := rfl
@[simp] theorem afterDelivery_writeIndex (p : List Byte) (s : State) : (afterDelivery p s).writeIndex = s.writeIndex := rfl
@[simp] theorem afterDelivery_payloadBuffer (p : List Byte) (s : State) :
    (afterDelivery p s).payloadBuffer = Memory.write s.payloadBuffer s.declaredLength.toNat term := rfl
@[simp] theorem afterDelivery_busy (p : List Byte) (s : State) : (afterDelivery p s).busy = s.busy := rfl
@[simp] theorem afterDelivery_deliveries (p : List Byte) (s : State) :
    (afterDelivery p s).deliveries = s.deliveries ++ [{ n := s.declaredLength.toNat, payload := p }] := rfl
@[simp] theorem afterDelivery_tx (p : List Byte) (s : State) : (afterDelivery p s).tx = s.tx := rfl
@[simp] theorem afterDelivery_outcomes (p : List Byte) (s : State) : (afterDelivery p s).outcomes = s.outcomes := rfl
@[simp] theorem afterDelivery_pending (p : List Byte) (s : State) : (afterDelivery p s).pending = s.pending := rfl

/-! POLL and SEND -/

/-- Everything POLL can do once enabled. -/
theorem pollBody_cases {o : OpOutcome} (h : pollBody s = .ok (o, t)) :
    (s.empty = true ∧ o = .polled none ∧ t = s) ∨
      (∃ b k u, s.empty = false ∧ s.tail < s.cfg.n ∧ Memory.read s.slot s.tail = some b ∧
        feedByte b (s.setTail (advance s.cfg.n s.tail)) = .ok (k, u) ∧ o = .polled (some k) ∧
        t = if k = .csumOk then u.setBusy true else u) := by
  unfold pollBody at h
  split at h
  · cases h
  · rename_i s1 hd
    cases h
    rcases dequeue_cases hd with ⟨he, -, rfl⟩ | ⟨b, -, -, -, hr, -⟩
    · exact .inl ⟨he, rfl, rfl⟩
    · cases hr
  · rename_i b s1 hd
    rcases dequeue_cases hd with ⟨-, hr, -⟩ | ⟨b', he, hi, hm, hr, rfl⟩
    · cases hr
    · cases hr
      split at h
      · cases h
      · rename_i k u hf
        cases h
        exact .inr ⟨b, k, u, he, hi, hm, hf, rfl, rfl⟩

theorem sendBody_sent {resp : List Byte} (h : lengthInRange s.cfg.maxPayload resp.length = true) :
    sendBody resp s = (.sent, s.setTx (s.tx ++ frameGroups resp)) := by
  simp [sendBody, h, transmit, frameGroups, State.setTx]

theorem sendBody_skipped {resp : List Byte} (h : lengthInRange s.cfg.maxPayload resp.length = false) :
    sendBody resp s = (.skipped, s) := by
  simp [sendBody, h]

/-- The four groups together are the wire frame (R97). -/
theorem frameGroups_flatten (p : List Byte) : (frameGroups p).flatten = frameOf p := by
  simp [frameGroups, frameOf]

/-! The end of an operation -/

@[simp] theorem finish_ok (o : OpOutcome) (s : State) : finish (.ok (o, s)) = .next (s.record o) := rfl
@[simp] theorem finish_error (f : Fault) : finish (.error f) = .fault f := rfl

theorem finish_eq_next {r : Except Fault (OpOutcome × State)} (h : finish r = .next t) :
    ∃ o u, r = .ok (o, u) ∧ t = u.record o := by
  unfold finish at h
  split at h
  · cases h; exact ⟨_, _, rfl, rfl⟩
  · cases h

/-- A byte-class row runs exactly where the decoder reads it, and then does what FEED of its byte does. -/
theorem finishClass_eq_next {i : Instr} {k : ByteClass} {r : Except Fault State} (h : finishClass i b k r s = .next t) :
    decodeByte s.ctx b = i ∧ ∃ u, r = .ok u ∧ t = u.record (.fed k) := by
  unfold finishClass at h
  split at h
  · split at h
    · cases h; exact ⟨‹_›, _, rfl, rfl⟩
    · cases h
  · cases h

end Sys2Proof.Machine
end

