-- ==== Sys2Proof/Laws/Exec.lean ====
section
/-! SUPPORT. What each operation can do, read backwards from its next state; runs of operations; what a step can do. -/

namespace Sys2Proof.Machine

/-! Runs of operations -/

theorem runOps_append (xs ys : List Instr) (s : State) : runOps (xs ++ ys) s =
    match runOps xs s with
    | .next t => runOps ys t
    | .fault f => .fault f
    | .refused r => .refused r := by
  induction xs generalizing s with
  | nil => rfl
  | cons x xs ih =>
    simp only [List.cons_append, runOps]
    cases exec x s with
    | next t => simp [ih]
    | fault f => rfl
    | refused r => rfl

theorem runOps_append_next {xs ys : List Instr} {s t : State} (h : runOps xs s = .next t) :
    runOps (xs ++ ys) s = runOps ys t := by
  rw [runOps_append, h]

theorem runOps_cons_next {x : Instr} {xs : List Instr} {s t : State} (h : exec x s = .next t) :
    runOps (x :: xs) s = runOps xs t := by
  simp [runOps, h]

theorem feeds_append (a b : List Byte) : feeds (a ++ b) = feeds a ++ feeds b := by simp [feeds]

theorem enqueueAll_eq_runOps (bs : List Byte) (s : State) : enqueueAll bs s = runOps (rx bs) s := by
  induction bs generalizing s with
  | nil => rfl
  | cons b bs ih =>
    simp only [rx, List.map_cons, enqueueAll, runOps, exec, execEnq]
    split <;> simp_all [rx]

/-! FEED and the byte classes -/

theorem exec_feed_of_ok {b : Byte} {s u : State} {k : ByteClass} (h : feedByte b s = .ok (k, u)) :
    exec (.feed b) s = .next (u.record (.fed k)) := by
  simp [exec, execFeed, h]

theorem exec_feed_next {b : Byte} {s t : State} (h : exec (.feed b) s = .next t) :
    ∃ k u, feedByte b s = .ok (k, u) ∧ t = u.record (.fed k) := by
  simp only [exec, execFeed] at h
  split at h
  · cases h; exact ⟨_, _, ‹_›, rfl⟩
  · cases h

/-- The end of a byte-class row whose effect is its class's, as a FEED of its byte. -/
theorem finishClass_eq_feed {s : State} {i : Instr} {b : Byte} {k : ByteClass} {r : Except Fault State}
    (hr : r = applyClass k b s) (hk : ∀ k', instrOfClass k' b = i → k' = k) :
    finishClass i b k r s = if decodeByte s.ctx b = i then exec (.feed b) s else .refused .classNotSelected := by
  unfold finishClass
  by_cases hd : decodeByte s.ctx b = i
  · rw [if_pos hd, if_pos hd, hr, exec, execFeed, feedByte, hk _ hd]
    cases applyClass k b s <;> rfl
  · rw [if_neg hd, if_neg hd]

/-- What a byte leaves alone, whatever its class. -/
theorem feedByte_keeps {b : Byte} {s u : State} {k : ByteClass} (h : feedByte b s = .ok (k, u)) :
    KeepsQueue s u ∧ u.busy = s.busy ∧ u.tx = s.tx ∧ KeepsSetting s u ∧ u.outcomes = s.outcomes := by
  rcases feedByte_cases h with ⟨h1, h2, rfl, rfl⟩ | ⟨h1, h2, rfl, rfl⟩ | ⟨h1, h2, rfl, rfl⟩ | ⟨h1, h2, rfl, rfl⟩ |
    ⟨h1, h2, rfl, rfl⟩ | ⟨h1, h2, rfl, rfl⟩ | ⟨p, h1, h2, rfl, h3, h4, rfl⟩ <;> simp [KeepsQueue, KeepsSetting]

/-- Only a matching checksum byte delivers. -/
theorem feedByte_deliveries {b : Byte} {s u : State} {k : ByteClass} (h : feedByte b s = .ok (k, u)) :
    (k ≠ .csumOk ∧ u.deliveries = s.deliveries) ∨
      (k = .csumOk ∧ s.pstate = .checksumExpected ∧ s.declaredLength.toNat < s.cfg.maxPayload ∧
        ∃ p, Memory.readRange s.payloadBuffer 0 s.declaredLength.toNat = some p ∧ u = afterDelivery p s) := by
  rcases feedByte_cases h with ⟨h1, h2, rfl, rfl⟩ | ⟨h1, h2, rfl, rfl⟩ | ⟨h1, h2, rfl, rfl⟩ | ⟨h1, h2, rfl, rfl⟩ |
    ⟨h1, h2, rfl, rfl⟩ | ⟨h1, h2, rfl, rfl⟩ | ⟨p, h1, h2, rfl, h3, h4, rfl⟩ <;> simp
  exact ⟨h1, h3, p, h4, rfl⟩

/-! The other operations -/

theorem exec_deq_next {s t : State} (h : exec .deq s = .next t) :
    ∃ r u, dequeue s = .ok (r, u) ∧ t = u.record (.dequeued r) := by
  simp only [exec, execDeq] at h
  split at h
  · cases h; exact ⟨_, _, ‹_›, rfl⟩
  · cases h

theorem exec_poll_next {s t : State} (h : exec .poll s = .next t) :
    s.busy = false ∧ ∃ o u, pollBody s = .ok (o, u) ∧ t = u.record o := by
  simp only [exec, execPoll] at h
  split at h
  · cases h
  · rename_i hb; exact ⟨by simpa using hb, finish_eq_next h⟩

theorem exec_send_next {resp : List Byte} {s t : State} (h : exec (.send resp) s = .next t) :
    (lengthInRange s.cfg.maxPayload resp.length = true ∧ t = (s.setTx (s.tx ++ frameGroups resp)).record .sent) ∨
      (lengthInRange s.cfg.maxPayload resp.length = false ∧ t = s.record .skipped) := by
  simp only [exec, execSend] at h
  cases hl : lengthInRange s.cfg.maxPayload resp.length
  · rw [sendBody_skipped hl] at h; cases h; exact .inr ⟨rfl, rfl⟩
  · rw [sendBody_sent hl] at h; cases h; exact .inl ⟨rfl, rfl⟩

theorem exec_respond_next {resp : List Byte} {s t : State} (h : exec (.respond resp) s = .next t) : s.busy = true ∧
    ((lengthInRange s.cfg.maxPayload resp.length = true ∧
        t = ((s.setTx (s.tx ++ frameGroups resp)).setBusy false).record .sent) ∨
      (lengthInRange s.cfg.maxPayload resp.length = false ∧ t = (s.setBusy false).record .skipped)) := by
  simp only [exec, execRespond] at h
  split at h
  · refine ⟨‹_›, ?_⟩
    cases hl : lengthInRange s.cfg.maxPayload resp.length
    · rw [sendBody_skipped hl] at h; cases h; exact .inr ⟨rfl, rfl⟩
    · rw [sendBody_sent hl] at h; cases h; exact .inl ⟨rfl, rfl⟩
  · cases h

theorem exec_frame_next {p : List Byte} {s t : State} (h : exec (.frame p) s = .next t) :
    lengthInRange s.cfg.maxPayload p.length = true ∧ runOps (rx (frameOf p)) s = .next t := by
  simp only [exec, execFrame] at h
  split at h
  · rw [enqueueAll_eq_runOps] at h; exact ⟨‹_›, h⟩
  · cases h

/-! DRAIN -/

theorem drainWithin_busy {s : State} (fuel : Nat) (hb : s.busy = true) : drainWithin (fuel + 1) s = .refused .pollNotEnabled := by
  simp [drainWithin, hb]

/-- One POLL of a DRAIN: the last one, or one before the rest. -/
theorem drainWithin_poll {s t : State} {o : OpOutcome} (fuel : Nat) (hb : s.busy = false) (h : pollBody s = .ok (o, t)) :
    exec .poll s = .next (t.record o) ∧
      drainWithin (fuel + 1) s = if endsDrain o t.busy = true then .next (t.record o) else drainWithin fuel (t.record o) := by
  simp [exec, execPoll, drainWithin, hb, h, finish]

/-! Steps -/

theorem step_event {s : State} {e : PortEvent} {rest : List PortEvent} {i : Instr} (hc : s.cfg.ok)
    (hp : s.pending = e :: rest) (hd : decode s.ctx e = .instr i) : step s = exec i (s.setPending rest) := by
  rw [step, if_pos hc, hp]; simp only [hd]

theorem step_idle {s : State} (hc : s.cfg.ok) (hp : s.pending = []) : step s = idleTurn s := by
  rw [step, if_pos hc, hp]

/-- Everything a step can do that ends in a next state. -/
theorem step_next_cases {s t : State} (h : step s = .next t) : s.cfg.ok ∧
    ((s.pending = [] ∧ s.busy = false ∧ exec .poll s = .next t) ∨ (s.pending = [] ∧ s.busy = true ∧ t = s) ∨
      ∃ e rest i, s.pending = e :: rest ∧ decode s.ctx e = .instr i ∧ exec i (s.setPending rest) = .next t) := by
  unfold step at h
  split at h
  · refine ⟨‹_›, ?_⟩
    split at h
    · unfold idleTurn at h
      split at h
      · cases h; exact .inr (.inl ⟨‹_›, ‹_›, rfl⟩)
      · exact .inl ⟨‹_›, by simpa using ‹¬ s.busy = true›, h⟩
    · split at h
      · exact .inr (.inr ⟨_, _, _, ‹_›, ‹_›, h⟩)
      · cases h
  · cases h

theorem core_run_succ (M : Host.Core) (k : Nat) (s : M.State) : M.run (k + 1) s =
    match M.step s with
    | .next u => M.run k u
    | .fault f => .fault f
    | .refused r => .refused r := by
  cases h : M.step s <;> simp only [Host.Core.run, h]

end Sys2Proof.Machine
end

