-- ==== Sys2Proof/Laws/Execution.lean ====
section
/-! SUPPORT. What one moment of an endless execution can be, and its beginnings as traces. -/

namespace Sys2Proof.Machine

variable (e : Execution)

/-- Everything that can happen at one moment: nothing, or one of the agents' operations. -/
theorem Execution.moment_cases (k : Nat) : (e.op k = none ∧ e.state (k + 1) = e.state k) ∨
    ∃ i, e.op k = some i ∧ exec i (e.state k) = .next (e.state (k + 1)) ∧
      ((∃ b, i = .enq b) ∨ i = .poll ∨ (∃ resp, i = .respond resp) ∨ i = .reset ∨ ∃ p, i = .frame p) := by
  cases h : e.op k with
  | none => exact .inl ⟨rfl, e.rests k h⟩
  | some i =>
    refine .inr ⟨i, rfl, e.moves k i h, ?_⟩
    have := e.agents k i h
    cases i <;> simp_all [encode, Port.ofAgent]

@[simp] theorem Execution.opsBefore_zero : e.opsBefore 0 = [] := rfl

theorem Execution.opsBefore_succ (n : Nat) : e.opsBefore (n + 1) = e.opsBefore n ++ (e.op n).toList := by
  cases h : e.op n <;> simp [Execution.opsBefore, List.range_succ, List.filterMap_append, h]

/-- The first `n` moments are a trace of the operations they hold. -/
theorem Execution.runOps_opsBefore (n : Nat) : runOps (e.opsBefore n) (e.state 0) = .next (e.state n) := by
  induction n with
  | zero => rfl
  | succ n ih =>
    rw [e.opsBefore_succ, runOps_append_next ih]
    cases h : e.op n with
    | none => simp [runOps, e.rests n h]
    | some i => simp [runOps, e.moves n i h]

/-- Where the wait for a response ends, `busy` is 0 afterwards. -/
theorem Execution.busy_after_wait {k : Nat} (h : e.waitEndsAt k) : (e.state (k + 1)).busy = false := by
  rcases h with h | ⟨resp, h⟩
  · have := e.moves _ _ h
    simp only [exec, execReset] at this
    injection this with this
    rw [← this]; rfl
  · rcases (exec_respond_next (e.moves _ _ h)).2 with ⟨-, h⟩ | ⟨-, h⟩ <;> rw [h] <;> rfl

/-! The count of dequeued bytes -/

@[simp] theorem polledBytes_nil : polledBytes [] = 0 := rfl

theorem polledBytes_append (a b : List OpOutcome) : polledBytes (a ++ b) = polledBytes a + polledBytes b := by
  induction a with
  | nil => simp
  | cons o a ih =>
    cases o with
    | polled r => cases r <;> simp only [List.cons_append, polledBytes, ih]; omega
    | _ => simp only [List.cons_append, polledBytes, ih]

end Sys2Proof.Machine
end

