-- ==== Sys2Proof/Laws/Invariant.lean ====
section
/-! SUPPORT. The invariants of Safety.lean: on what parts of the state they depend, how the queue's two moves keep the queue's, and a
check that gives them for a state written out. -/

namespace Sys2Proof.Machine

variable {s t : State}

/-! An invariant depends only on the fields it names -/

theorem QueueInv.congr (q : QueueInv s) (h1 : t.cfg = s.cfg) (h2 : KeepsQueue s t) : QueueInv t := by
  obtain ⟨a, b, c, d, e⟩ := q
  obtain ⟨g1, g2, g3⟩ := h2
  refine ⟨by rw [h1, g2]; exact a, by rw [h1, g3]; exact b, ?_, by rw [g1]; exact d, by rw [h1, g1]; exact e⟩
  simpa only [State.count, State.queueIndex, h1, g1, g2, g3] using c

theorem ParserInv.congr (i : ParserInv s) (h1 : t.cfg = s.cfg) (h2 : KeepsParserRegisters s t)
    (h3 : t.payloadBuffer = s.payloadBuffer) : ParserInv t := by
  obtain ⟨a, b, c, d, e⟩ := i
  obtain ⟨g1, g2, g3, g4⟩ := h2
  exact ⟨by rw [h1, g4]; exact a, by rw [h1, g1, g2, g3, g4, h3]; exact b, by rw [h1, g1, g2, g3, g4, h3]; exact c,
    by rw [h3]; exact d, by rw [h1, h3]; exact e⟩

theorem BlockInv.congr (i : BlockInv s) (h1 : t.cfg = s.cfg) (h2 : KeepsQueue s t) (h3 : KeepsParserRegisters s t)
    (h4 : t.payloadBuffer = s.payloadBuffer) (h5 : KeepsOutputs s t) : BlockInv t := by
  obtain ⟨p, q, r, f, g⟩ := i
  refine ⟨by rw [h1]; exact p, q.congr h1 h2, r.congr h1 h3 h4, ?_, ?_⟩
  · simpa only [DeliveryInv, h1, h5.1] using f
  · simpa only [TxInv, h1, h5.2] using g

theorem BlockInv.record (i : BlockInv s) (o : OpOutcome) : BlockInv (s.record o) :=
  i.congr rfl ⟨rfl, rfl, rfl⟩ ⟨rfl, rfl, rfl, rfl⟩ rfl ⟨rfl, rfl⟩

theorem BusyInv.congr (i : BusyInv s) (h1 : t.cfg = s.cfg) (h2 : t.pstate = s.pstate)
    (h3 : t.declaredLength = s.declaredLength) (h4 : t.payloadBuffer = s.payloadBuffer)
    (h5 : t.deliveries = s.deliveries) (h6 : t.busy = s.busy) : BusyInv t := by
  unfold BusyInv at *
  rw [h1, h2, h3, h4, h5, h6]; exact i

/-! The queue's two moves -/

theorem QueueInv.first_written (q : QueueInv s) (he : s.empty = false) : ∃ b, Memory.read s.slot s.tail = some b := by
  have hc : s.count ≠ 0 := by
    intro h; rw [(empty_iff_count q.tail_lt).mpr h] at he; cases he
  have := q.written 0 (by omega)
  simpa [State.queueIndex, wrapAdd_zero q.tail_lt] using this

theorem QueueInv.store (hn : 2 ≤ s.cfg.n) (q : QueueInv s) (b : Byte) (hf : s.full = false) :
    QueueInv ((s.setSlot (Memory.write s.slot s.head b)).setHead (advance s.cfg.n s.head)) := by
  have hlt := count_lt q.head_lt q.tail_lt
  have hnf : s.count ≠ s.cfg.n - 1 := by
    intro h; rw [(full_iff_count q.head_lt q.tail_lt hn).mpr h] at hf; cases hf
  have hcount : ((s.setSlot (Memory.write s.slot s.head b)).setHead (advance s.cfg.n s.head)).count = s.count + 1 := by
    have h1 := q.head_lt; have h2 := q.tail_lt
    revert hnf; unfold State.count advance
    simp only [setHead_head, setHead_tail, setHead_cfg, setSlot_tail, setSlot_cfg]
    split <;> split <;> split <;> omega
  refine ⟨advance_lt _ (show 0 < s.cfg.n by omega), q.tail_lt, ?_, Memory.wf_write _ _ q.slot_wf, ?_⟩
  · intro k hk
    rw [hcount] at hk
    simp only [State.queueIndex, setHead_slot, setHead_tail, setHead_cfg, setSlot_slot, setSlot_tail, setSlot_cfg, Memory.read_write]
    split
    · exact ⟨b, rfl⟩
    · rename_i hne
      refine q.written k ?_
      rcases Nat.lt_succ_iff_lt_or_eq.mp hk with h | rfl
      · exact h
      · exact absurd (head_eq q.head_lt q.tail_lt).symm hne
  · intro a v h
    simp only [setHead_slot, setSlot_slot, Memory.read_write] at h
    split at h
    · subst a; exact q.head_lt
    · exact q.slot_range a v h

theorem QueueInv.take (q : QueueInv s) (he : s.empty = false) : QueueInv (s.setTail (advance s.cfg.n s.tail)) := by
  have hc : s.count ≠ 0 := by
    intro h; rw [(empty_iff_count q.tail_lt).mpr h] at he; cases he
  have hlt := count_lt q.head_lt q.tail_lt
  have hcount : s.count = (s.setTail (advance s.cfg.n s.tail)).count + 1 := by
    have h1 := q.head_lt; have h2 := q.tail_lt
    revert hc; unfold State.count advance; simp only [setTail_head, setTail_tail, setTail_cfg]
    split <;> split <;> split <;> omega
  refine ⟨q.head_lt, advance_lt _ (by have := q.head_lt; omega), ?_, q.slot_wf, q.slot_range⟩
  intro k hk
  have := q.written (k + 1) (by omega)
  simpa [State.queueIndex, wrapAdd_advance q.tail_lt (show k + 1 < s.cfg.n by omega)] using this

/-! A check for states written out -/

/-- The queue's invariant, as a check. -/
def queueCheck (s : State) : Bool :=
  decide (s.head < s.cfg.n) && decide (s.tail < s.cfg.n) &&
    (List.range s.count).all (fun k => (Memory.read s.slot (s.queueIndex k)).isSome) &&
    Memory.wf s.slot && s.slot.all (fun x => decide (x.1 < s.cfg.n))

/-- The parser's invariant, as a check. -/
def parserCheck (s : State) : Bool :=
  decide (s.writeIndex < s.cfg.maxPayload) && Memory.wf s.payloadBuffer &&
    s.payloadBuffer.all (fun x => decide (x.1 < s.cfg.maxPayload)) &&
    (match s.pstate with
      | .idle => true
      | .lengthExpected => true
      | .payloadAccumulating =>
        decide (0 < s.declaredLength.toNat) && decide (s.declaredLength.toNat < s.cfg.maxPayload) &&
          decide (s.writeIndex < s.declaredLength.toNat) &&
          decide ((Memory.readRange s.payloadBuffer 0 s.writeIndex).map cksum = some s.acc)
      | .checksumExpected =>
        decide (0 < s.declaredLength.toNat) && decide (s.declaredLength.toNat < s.cfg.maxPayload) &&
          decide (s.writeIndex = s.declaredLength.toNat) &&
          decide ((Memory.readRange s.payloadBuffer 0 s.declaredLength.toNat).map cksum = some s.acc))

/-- The whole invariant, as a check; `ps` are the payloads framed on the transmit output. -/
def blockCheck (ps : List (List Byte)) (s : State) : Bool :=
  decide s.cfg.ok && queueCheck s && parserCheck s &&
    s.deliveries.all (fun d => decide (d.payload.length = d.n ∧ 0 < d.n ∧ d.n < s.cfg.maxPayload)) &&
    ps.all (fun p => decide (0 < p.length ∧ p.length < s.cfg.maxPayload)) && decide (s.tx = ps.flatMap frameGroups)

theorem queueInv_of_check (h : queueCheck s = true) : QueueInv s := by
  simp only [queueCheck, Bool.and_eq_true, decide_eq_true_eq, List.all_eq_true] at h
  obtain ⟨⟨⟨⟨h1, h2⟩, h3⟩, h4⟩, h5⟩ := h
  refine ⟨h1, h2, fun k hk => ?_, h4, fun a b hb => h5 _ (Memory.mem_of_read hb)⟩
  exact Option.isSome_iff_exists.mp (h3 k (List.mem_range.mpr hk))

theorem parserInv_of_check (h : parserCheck s = true) : ParserInv s := by
  simp only [parserCheck, Bool.and_eq_true, decide_eq_true_eq, List.all_eq_true] at h
  obtain ⟨⟨⟨h1, h2⟩, h3⟩, h4⟩ := h
  refine ⟨h1, fun hp => ?_, fun hp => ?_, h2, fun a b hb => h3 _ (Memory.mem_of_read hb)⟩
  · simp only [hp, Bool.and_eq_true, decide_eq_true_eq] at h4
    obtain ⟨⟨⟨a, b⟩, c⟩, d⟩ := h4
    obtain ⟨p, e, f⟩ := Option.map_eq_some_iff.mp d
    exact ⟨a, b, c, p, e, f.symm⟩
  · simp only [hp, Bool.and_eq_true, decide_eq_true_eq] at h4
    obtain ⟨⟨⟨a, b⟩, c⟩, d⟩ := h4
    obtain ⟨p, e, f⟩ := Option.map_eq_some_iff.mp d
    exact ⟨a, b, c, p, e, f.symm⟩

theorem blockInv_of_check (ps : List (List Byte)) (h : blockCheck ps s = true) : BlockInv s := by
  simp only [blockCheck, Bool.and_eq_true, decide_eq_true_eq, List.all_eq_true] at h
  obtain ⟨⟨⟨⟨⟨h1, h2⟩, h3⟩, h4⟩, h5⟩, h6⟩ := h
  exact ⟨h1, queueInv_of_check h2, parserInv_of_check h3, h4, ps, h5, h6⟩

end Sys2Proof.Machine
end

