-- ==== Sys2Proof/Laws/PerInstr.lean ====
section
/-! SUPPORT. Statements about an instruction as syntax, one lemma per constructor. -/

namespace Sys2Proof.Laws.Encoded

/-- How many bytes a well-formed instruction's event carries: one for a byte operand, none for an operation without operands, any
number for a response, and between 4 and `MAX_PAYLOAD + 2` for a wire frame (30_encoding.md R54). -/
def Statement (i : Instr) : Prop :=
  ∀ c : Config, i.wf c = true →
    match (encode i).port with
    | .rx => (encode i).data.length = 1
    | .dequeue => (encode i).data = []
    | .feed => (encode i).data.length = 1
    | .poll => (encode i).data = []
    | .resp => (encode i).data.length ≥ 0
    | .send => (encode i).data.length ≥ 0
    | .rst => (encode i).data = []
    | .byteClass => (encode i).data.length = 1
    | .wire => 4 ≤ (encode i).data.length ∧ (encode i).data.length ≤ c.maxPayload + 2

theorem enq (b : Byte) : Statement (.enq b) := fun _ _ => rfl
theorem deq : Statement .deq := fun _ _ => rfl
theorem feed (b : Byte) : Statement (.feed b) := fun _ _ => rfl
theorem poll : Statement .poll := fun _ _ => rfl
theorem respond (resp : List Byte) : Statement (.respond resp) := fun _ _ => Nat.zero_le _
theorem send (resp : List Byte) : Statement (.send resp) := fun _ _ => Nat.zero_le _
theorem reset : Statement .reset := fun _ _ => rfl
theorem feedIdleSof : Statement .feedIdleSof := fun _ _ => rfl
theorem feedIdleSkip (b : Byte) : Statement (.feedIdleSkip b) := fun _ _ => rfl
theorem feedLenBadZero : Statement .feedLenBadZero := fun _ _ => rfl
theorem feedLenBadOver (b : Byte) : Statement (.feedLenBadOver b) := fun _ _ => rfl
theorem feedLenOk (b : Byte) : Statement (.feedLenOk b) := fun _ _ => rfl
theorem feedPayload (b : Byte) : Statement (.feedPayload b) := fun _ _ => rfl
theorem feedCsumOk (b : Byte) : Statement (.feedCsumOk b) := fun _ _ => rfl
theorem feedCsumBad (b : Byte) : Statement (.feedCsumBad b) := fun _ _ => rfl

theorem frame (p : List Byte) : Statement (.frame p) := by
  intro c h
  simp only [Instr.wf, Bool.and_eq_true, decide_eq_true_eq] at h
  simp only [encode, frameOf_length]
  omega

end Sys2Proof.Laws.Encoded
end

