-- ==== Sys2Proof/Laws/Ports.lean ====
section
/-! SUPPORT. What one clock edge does to the block and to what is kept beside it (10_state.md R32). -/

namespace Sys2Proof.Machine

variable {i : PortsIn} {h : Harness}

theorem Harness.collected_busy (hb : h.block.busy = true) :
    h.collected i = if i.respValid = true then h.respBytes ++ [i.respData] else h.respBytes := by
  simp [Harness.collected, hb]

theorem Harness.collected_free (hb : h.block.busy = false) : h.collected i = h.respBytes := by simp [Harness.collected, hb]

/-- Everything the consumer can do at an edge: RESPOND while a response is awaited, POLL while none is. -/
theorem Harness.consumerOp_some {c : Instr} (hc : h.consumerOp i = some c) :
    (h.block.busy = true ∧ i.respLast = true ∧ c = .respond (h.collected i)) ∨
      (h.block.busy = false ∧ i.poll = true ∧ c = .poll) := by
  unfold Harness.consumerOp at hc
  cases hb : h.block.busy <;> simp only [hb] at hc <;> split at hc <;> simp_all

/-- An edge without `rst` whose operations give `t`. -/
theorem Harness.edge_of_ops {t : State} (hr : i.rst = false) (ht : h.edgeOps i = .next t) : h.edge i = .next
    { block := t
      respBytes := if h.block.busy && i.respLast then [] else h.collected i
      txTaken := if i.txReady && h.txData.isSome then h.txTaken + 1 else h.txTaken } := by
  simp only [Harness.edge, hr, ht]; rfl

/-- Everything an edge can do that ends in a next state. -/
theorem Harness.edge_next_cases {h' : Harness} (he : h.edge i = .next h') :
    (i.rst = true ∧ ∃ t, exec .reset h.block = .next t ∧ h' = { block := t, respBytes := [], txTaken := 0 }) ∨
      (i.rst = false ∧ h.edgeOps i = .next h'.block ∧
        h'.respBytes = (if h.block.busy && i.respLast then [] else h.collected i) ∧
        h'.txTaken = if i.txReady && h.txData.isSome then h.txTaken + 1 else h.txTaken) := by
  unfold Harness.edge at he
  cases hr : i.rst
  · rw [hr] at he
    simp only [Bool.false_eq_true, if_false] at he
    split at he <;> cases he
    exact .inr ⟨rfl, ‹_›, rfl, rfl⟩
  · rw [hr] at he
    simp only [if_true] at he
    split at he <;> cases he
    exact .inl ⟨rfl, _, ‹_›, rfl⟩

end Sys2Proof.Machine
end

