-- ==== Sys2Proof/Tests/Slice0.lean ====
section
/-! SUPPORT. The model's own tests and, for each statement with hypotheses, states and operands that meet them. "V-..." and "PG..." name the
vectors of 95_test_vectors.md that a test's expected result is taken from. -/

namespace Sys2Proof.Tests

open Sys2Proof Sys2Proof.Machine

/-! Helpers -/

def nextOf (o : Host.Outcome State Fault Refusal) : Option State :=
  match o with
  | .next t => some t
  | .fault _ => none
  | .refused _ => none

def refusalOf (o : Host.Outcome State Fault Refusal) : Option Refusal :=
  match o with
  | .next _ => none
  | .fault _ => none
  | .refused r => some r

def faultOf (o : Host.Outcome State Fault Refusal) : Option Fault :=
  match o with
  | .next _ => none
  | .fault f => some f
  | .refused _ => none

def m128 : Config := { n := 16, maxPayload := 128 }
def m4 : Config := { n := 16, maxPayload := 4 }

/-- A queue of four slots. -/
def queue4 (head tail : Nat) (slot : Memory) : State :=
  { State.resetWith { n := 4, maxPayload := 128 } with head := head, tail := tail, slot := slot }

/-- A parser in a given state. -/
def parser (ps : PState) (dl acc : Byte) (wi : Nat) (pb : Memory) : State :=
  { State.resetWith m128 with pstate := ps, declaredLength := dl, acc := acc, writeIndex := wi, payloadBuffer := pb }

def inLength : State := parser .lengthExpected 0 0 0 []
/-- V-S1 before its last payload byte. -/
def inPayload : State := parser .payloadAccumulating 4 0x47 3 [(0, 0x70), (1, 0x69), (2, 0x6E)]
/-- V-S1 before its checksum byte. -/
def inChecksum : State := parser .checksumExpected 4 0xAE 4 [(0, 0x70), (1, 0x69), (2, 0x6E), (3, 0x67)]
/-- V-S1's payload delivered, its response awaited. -/
def delivered : State :=
  { parser .idle 4 0xAE 4 [(0, 0x70), (1, 0x69), (2, 0x6E), (3, 0x67), (4, 0x00)] with
    busy := true
    deliveries := [{ n := 4, payload := [0x70, 0x69, 0x6E, 0x67] }] }
/-- V-Q6 (b): a full queue of four slots. -/
def full4 : State := queue4 3 0 [(0, 0x11), (1, 0x22), (2, 0x33)]
/-- The right checksum byte of V-S1 waiting in the queue. -/
def lastByteQueued : State := { inChecksum with head := 1, slot := [(0, 0xAE)] }

/-- One payload byte delivered at a ceiling of 4, its response awaited. -/
def delivered4 : State :=
  { parser .idle 1 0x41 1 [(0, 0x41), (1, 0x00)] with
    cfg := m4
    busy := true
    deliveries := [{ n := 1, payload := [0x41] }] }

/-! Well-formedness: one ill-formed term for each check -/

theorem test_wf_skip_marker : Instr.wf m128 (.feedIdleSkip 0xAA) = false := by decide
theorem test_wf_over_zero : Instr.wf m128 (.feedLenBadOver 0x00) = false := by decide
theorem test_wf_over_valid : Instr.wf m128 (.feedLenBadOver 0x7F) = false := by decide
theorem test_wf_ok_zero : Instr.wf m128 (.feedLenOk 0x00) = false := by decide
theorem test_wf_ok_ceiling : Instr.wf m128 (.feedLenOk 0x80) = false := by decide
/-- V-E9 -/
theorem test_wf_frame_empty : Instr.wf m128 (.frame []) = false := by decide
/-- V-E10, at a ceiling of 4: the length equal to the ceiling is invalid. -/
theorem test_wf_frame_ceiling : Instr.wf m4 (.frame [0x42, 0x42, 0x42, 0x42]) = false := by decide
theorem test_config_n : ¬ Config.ok { n := 1, maxPayload := 128 } := by decide
theorem test_config_low : ¬ Config.ok { n := 2, maxPayload := 1 } := by decide
theorem test_config_high : ¬ Config.ok { n := 2, maxPayload := 257 } := by decide

/-! Decoding: every row's word, written out from its encoding -/

def ctxOf (ps : PState) (acc : Byte) : DecodeCtx := { maxPayload := 128, pstate := ps, acc := acc }

theorem test_decode_enq : decode (ctxOf .idle 0) { port := .rx, data := [0b00010001#8] } = .instr (.enq 0x11) := rfl
theorem test_decode_deq : decode (ctxOf .idle 0) { port := .dequeue, data := [] } = .instr .deq := rfl
theorem test_decode_feed : decode (ctxOf .idle 0) { port := .feed, data := [0b00000100#8] } = .instr (.feed 0x04) := rfl
theorem test_decode_poll : decode (ctxOf .idle 0) { port := .poll, data := [] } = .instr .poll := rfl
theorem test_decode_respond : decode (ctxOf .idle 0) { port := .resp, data := [0b01001111#8, 0b01001011#8] } = .instr (.respond [0x4F, 0x4B]) := rfl
theorem test_decode_send : decode (ctxOf .idle 0) { port := .send, data := [0b01000001#8] } = .instr (.send [0x41]) := rfl
theorem test_decode_reset : decode (ctxOf .idle 0) { port := .rst, data := [] } = .instr .reset := rfl
/-- V-D1 -/
theorem test_decode_idleSof : decode (ctxOf .idle 0) { port := .byteClass, data := [0b10101010#8] } = .instr .feedIdleSof := rfl
/-- V-D2 -/
theorem test_decode_idleSkip : decode (ctxOf .idle 0) { port := .byteClass, data := [0b10101011#8] } = .instr (.feedIdleSkip 0xAB) := rfl
/-- V-D4 -/
theorem test_decode_lenBadZero : decode (ctxOf .lengthExpected 0) { port := .byteClass, data := [0b00000000#8] } = .instr .feedLenBadZero := rfl
/-- V-D4 -/
theorem test_decode_lenBadOver : decode (ctxOf .lengthExpected 0) { port := .byteClass, data := [0b10000000#8] } = .instr (.feedLenBadOver 0x80) := rfl
/-- V-D3 -/
theorem test_decode_lenOk : decode (ctxOf .lengthExpected 0) { port := .byteClass, data := [0b01111111#8] } = .instr (.feedLenOk 0x7F) := rfl
/-- V-D5 -/
theorem test_decode_payload : decode (ctxOf .payloadAccumulating 0) { port := .byteClass, data := [0b10101010#8] } = .instr (.feedPayload 0xAA) := rfl
/-- V-D6 -/
theorem test_decode_csumOk : decode (ctxOf .checksumExpected 0xAE) { port := .byteClass, data := [0b10101110#8] } = .instr (.feedCsumOk 0xAE) := rfl
/-- V-D7 -/
theorem test_decode_csumBad : decode (ctxOf .checksumExpected 0xAE) { port := .byteClass, data := [0b11010010#8] } = .instr (.feedCsumBad 0xD2) := rfl
/-- V-E1 -/
theorem test_decode_frame : decode (ctxOf .idle 0)
    { port := .wire, data := [0b10101010#8, 0b00000100#8, 0b01110000#8, 0b01101001#8, 0b01101110#8, 0b01100111#8, 0b10101110#8] } =
      .instr (.frame [0x70, 0x69, 0x6E, 0x67]) := rfl
/-- V-D9 -/
theorem test_decode_ceiling256 : decodeByte { maxPayload := 256, pstate := .lengthExpected, acc := 0 } 0xAA = .feedLenOk 0xAA := rfl
/-- V-D10 -/
theorem test_decode_ceiling2 : decodeByte { maxPayload := 2, pstate := .lengthExpected, acc := 0 } 0x02 = .feedLenBadOver 0x02 := rfl

theorem test_reject_operand : decode (ctxOf .idle 0) { port := .rx, data := [] } = .reject .wrongOperand := rfl
theorem test_reject_marker : decode (ctxOf .idle 0) { port := .wire, data := [0xAB, 1, 0x41, 0x41] } = .reject .noStartMarker := rfl
theorem test_reject_length : decode (ctxOf .idle 0) { port := .wire, data := [0xAA, 0, 0] } = .reject .badLength := rfl
theorem test_reject_truncated : decode (ctxOf .idle 0) { port := .wire, data := [0xAA, 2, 0x41, 0x41] } = .reject .truncated := rfl
theorem test_reject_trailing : decode (ctxOf .idle 0) { port := .wire, data := [0xAA, 1, 0x41, 0x41, 0] } = .reject .trailingBytes := rfl
/-- V-S1b: the source's literal checksum. -/
theorem test_reject_checksum : decode (ctxOf .idle 0) { port := .wire, data := [0xAA, 4, 0x70, 0x69, 0x6E, 0x67, 0xD2] } = .reject .badChecksum := rfl

theorem test_word_sof : decodeTableWord 8 0xAA = some .feedIdleSof := by decide
theorem test_word_lenBad : decodeTableWord 8 0x80 = some (.feedLenBadOver 0x80) := by decide
theorem test_word_lenOk : decodeTableWord 8 0x04 = some (.feedLenOk 0x04) := by decide
theorem test_word_poll : decodeTableWord 0 0 = some .poll := by decide
/-- V-E2, first byte in the low bits. -/
theorem test_word_frame : decodeTableWord 32 0x414101AA = some (.frame [0x41]) := by decide
/-- The word that withFetchWord places is what the next step runs. -/
theorem test_fetch_sof : (nextOf (step (State.reset.withFetchWord 8 0xAA))).map State.pstate = some .lengthExpected := by decide
theorem test_fetch_frame : (nextOf (step (State.reset.withFetchWord 32 0x414101AA))).map State.contents = some [0xAA, 0x01, 0x41, 0x41] := by decide

/-! Checksums and frames -/

/-- V-E4 -/
theorem test_frameOf_ledoff : frameOf [0x6C, 0x65, 0x64, 0x3A, 0x6F, 0x66, 0x66] =
    [0xAA, 0x07, 0x6C, 0x65, 0x64, 0x3A, 0x6F, 0x66, 0x66, 0xAA] := by decide
/-- V-E7: the sum wraps past 255. -/
theorem test_cksum_wraps : cksum [0xF0, 0x20] = 0x10 := by decide

/-! One step of each operation -/

/-- V-Q1, `ENQ 55`: the head wraps and the slot is written. -/
theorem test_enq_wrap : (nextOf (exec (.enq 0x55) (queue4 3 2 [(0, 0x11), (1, 0x22), (2, 0x33)]))).map
    (fun t => (t.head, t.tail, t.slot)) = some (0, 2, [(0, 0x11), (1, 0x22), (2, 0x33), (3, 0x55)]) := by decide
/-- V-Q5: a dropped byte writes nothing. -/
theorem test_enq_dropped : (nextOf (exec (.enq 0x44) full4)).map State.withoutOutcomes = some full4 := by decide
/-- V-Q1, `DEQ` that wraps the tail. -/
theorem test_deq_wrap : (nextOf (exec .deq (queue4 1 3 [(0, 0x66), (1, 0x22), (2, 0x33), (3, 0x55)]))).map
    (fun t => (t.head, t.tail, t.outcomes)) = some (1, 0, [.dequeued (some 0x55)]) := by decide
/-- V-Q2 -/
theorem test_deq_empty : (nextOf (exec .deq State.reset)).map State.outcomes = some [.dequeued none] := by decide
/-- R83's example: `FEED 0x67`. -/
theorem test_feed_payload : (nextOf (exec (.feed 0x67) inPayload)).map
    (fun t => (t.pstate, t.acc, t.writeIndex, t.payloadBuffer)) =
      some (.checksumExpected, 0xAE, 4, [(0, 0x70), (1, 0x69), (2, 0x6E), (3, 0x67)]) := by decide
/-- R85's example: `FEED 0xAE`. -/
theorem test_feed_delivers : (nextOf (exec (.feed 0xAE) inChecksum)).map State.withoutOutcomes =
    some { delivered with busy := false } := by decide
/-- R88's example. -/
theorem test_poll_marker : (nextOf (exec .poll { State.reset with head := 1, slot := [(0, 0xAA)] })).map
    (fun t => (t.count, t.pstate, t.busy)) = some (0, .lengthExpected, false) := by decide
/-- V-S1's last byte, polled: `busy` is set. -/
theorem test_poll_delivers : (nextOf (exec .poll lastByteQueued)).map (fun t => (t.busy, t.pstate, t.deliveries.length)) =
    some (true, .idle, 1) := by decide
/-- R89's example: the eleven bytes. -/
theorem test_respond_pong : (nextOf (exec (.respond Dispatcher.ackPong) delivered)).map (fun t => (t.busy, t.tx.flatten)) =
    some (false, [0xAA, 0x08, 0x41, 0x43, 0x4B, 0x3A, 0x70, 0x6F, 0x6E, 0x67, 0xBD]) := by decide
/-- PG4 step 11: an empty response is skipped and `busy` cleared all the same. -/
theorem test_respond_skipped : (nextOf (exec (.respond []) delivered)).map (fun t => (t.busy, t.tx, t.outcomes)) =
    some (false, [], [.skipped]) := by decide
/-- V-S1: the four groups of `SEND "ACK:pong"`. -/
theorem test_send_groups : (nextOf (exec (.send Dispatcher.ackPong) State.reset)).map State.tx =
    some [[0xAA], [0x08], [0x41, 0x43, 0x4B, 0x3A, 0x70, 0x6F, 0x6E, 0x67], [0xBD]] := by decide
/-- R96, as PG4 step 19: as many bytes as the ceiling are one too many. -/
theorem test_send_ceiling : (nextOf (exec (.send [0x42, 0x42, 0x42, 0x42]) (State.resetWith m4))).map (fun t => (t.tx, t.outcomes)) =
    some ([], [.skipped]) := by decide
/-- PG5 step 8. -/
theorem test_reset : (nextOf (exec .reset { inPayload with head := 5, tail := 2, busy := true })).map State.withoutOutcomes =
    some State.reset := by decide
theorem test_idleSof : (nextOf (exec .feedIdleSof State.reset)).map State.pstate = some .lengthExpected := by decide
theorem test_idleSkip : (nextOf (exec (.feedIdleSkip 0x04) State.reset)).map State.withoutOutcomes = some State.reset := by decide
/-- V-F3 -/
theorem test_lenBadZero : (nextOf (exec .feedLenBadZero inLength)).map State.withoutOutcomes = some State.reset := by decide
/-- V-F2: `0xAA` as a length is invalid and latched nowhere. -/
theorem test_lenBadOver : (nextOf (exec (.feedLenBadOver 0xAA) inLength)).map State.withoutOutcomes = some State.reset := by decide
/-- V-F5 -/
theorem test_lenOk : (nextOf (exec (.feedLenOk 0x7F) inLength)).map (fun t => (t.pstate, t.declaredLength, t.acc, t.writeIndex)) =
    some (.payloadAccumulating, 0x7F, 0x00, 0) := by decide
/-- R83's corner case: the carry out of bit 7 is dropped. -/
theorem test_payload_carry : (nextOf (exec (.feedPayload 0x20) (parser .payloadAccumulating 4 0xF0 1 [(0, 0xF0)]))).map State.acc =
    some 0x10 := by decide
/-- V-F18: the terminator goes to the buffer's last index. -/
theorem test_csumOk_last : (nextOf (exec (.feedCsumOk 0x07)
    { parser .checksumExpected 1 0x07 1 [(0, 0x07)] with cfg := { n := 2, maxPayload := 2 } })).map State.payloadBuffer =
      some [(0, 0x07), (1, 0x00)] := by decide
/-- V-S1b -/
theorem test_csumBad : (nextOf (exec (.feedCsumBad 0xD2) inChecksum)).map State.withoutOutcomes =
    some { inChecksum with pstate := .idle } := by decide
/-- PG4 steps 1 to 4: the fourth byte of `frame("A")` finds the queue full. -/
theorem test_frame_overflow : (nextOf (exec (.frame [0x41]) (queue4 0 0 []))).map State.outcomes =
    some [.stored 0xAA, .stored 0x01, .stored 0x41, .dropped 0x41] := by decide

theorem test_poll_refused : refusalOf (exec .poll delivered) = some .pollNotEnabled := by decide
theorem test_respond_refused : refusalOf (exec (.respond [0x41]) State.reset) = some .respondNotEnabled := by decide
theorem test_class_refused : refusalOf (exec .feedIdleSof inLength) = some .classNotSelected := by decide
theorem test_frame_refused : refusalOf (exec (.frame []) State.reset) = some .frameUndefined := by decide
theorem test_step_undecodable : refusalOf (step { State.reset with pending := [{ port := .rx, data := [] }] }) =
    some (.undecodable .wrongOperand) := by decide
theorem test_step_parameters : refusalOf (step (State.resetWith { n := 1, maxPayload := 128 })) = some .parameterOutOfRange := by decide
theorem test_reset_memory_wf : Memory.wf State.reset.slot = true ∧ Memory.wf State.reset.payloadBuffer = true := by decide

/-! The surroundings -/

/-- V-Q6 (a): on an empty queue the ENQ of the same edge is stored and the POLL finds nothing. -/
theorem test_edge_empty : (nextOf (sameEdge 0x5A .poll (queue4 1 1 [(0, 0x66)]))).map (fun t => (t.head, t.tail, t.outcomes)) =
    some (2, 1, [.stored 0x5A, .polled none]) := by decide
/-- V-Q6 (b): on a full queue the ENQ of the same edge is dropped. -/
theorem test_edge_full : (nextOf (sameEdge 0x44 .poll full4)).map (fun t => (t.head, t.tail, t.outcomes)) =
    some (3, 1, [.dropped 0x44, .polled (some .idleSkip)]) := by decide
/-- R66: DRAIN ends with the POLL that sets `busy`, and else with the one that returns `None`. -/
theorem test_drain_delivery : (nextOf (drain lastByteQueued)).map (fun t => (t.busy, t.tail, t.outcomes)) =
    some (true, 1, [.polled (some .csumOk)]) := by decide
theorem test_drain_none : (nextOf (drain (queue4 3 1 [(1, 0x22), (2, 0x33)]))).map (fun t => (t.busy, t.tail, t.outcomes)) =
    some (false, 3, [.polled (some .idleSkip), .polled (some .idleSkip), .polled none]) := by decide

/-- V-S2 to V-S4 -/
theorem test_handle_led :
    Dispatcher.handle (Dispatcher.strLed ++ Dispatcher.strOn) = { resp := Dispatcher.ledOk, drive := some true } ∧
    Dispatcher.handle (Dispatcher.strLed ++ Dispatcher.strOff) = { resp := Dispatcher.ledOk, drive := some false } ∧
    (Dispatcher.handle (Dispatcher.strLed ++ [0x62, 0x6F, 0x67, 0x75, 0x73])).resp = Dispatcher.ledErr := by decide
/-- V-S5 to V-S7 -/
theorem test_handle_motor :
    (Dispatcher.handle (Dispatcher.strMotor ++ [0x31, 0x30, 0x3A, 0x31])).resp = Dispatcher.motorOk ∧
    (Dispatcher.handle (Dispatcher.strMotor ++ [0x61, 0x62, 0x63, 0x3A, 0x31])).resp = Dispatcher.motorBadArgs ∧
    (Dispatcher.handle (Dispatcher.strMotor ++ [0x31, 0x30])).resp = Dispatcher.motorFormat := by decide
/-- V-S8 and V-S1 -/
theorem test_handle_others :
    (Dispatcher.handle [0x78, 0x79, 0x7A]).resp = Dispatcher.unknown ∧
    (Dispatcher.handle [0x70, 0x69, 0x6E, 0x67]).resp = Dispatcher.ackPong := by decide

/-! The hypotheses of the statements: states and operands that meet them -/

theorem inv_reset : BlockInv State.reset := blockInv_of_check [] (by decide)
theorem inv_queue4 : BlockInv (queue4 3 1 [(1, 0x22), (2, 0x33)]) := blockInv_of_check [] (by decide)
theorem inv_full4 : BlockInv full4 := blockInv_of_check [] (by decide)
theorem inv_inLength : BlockInv inLength := blockInv_of_check [] (by decide)
theorem inv_inPayload : BlockInv inPayload := blockInv_of_check [] (by decide)
theorem inv_inChecksum : BlockInv inChecksum := blockInv_of_check [] (by decide)
theorem inv_delivered : BlockInv delivered := blockInv_of_check [] (by decide)
theorem inv_lastByteQueued : BlockInv lastByteQueued := blockInv_of_check [] (by decide)
/-- A state whose transmit output is not empty. -/
theorem inv_sent : BlockInv { State.reset with tx := [[0xAA], [0x02], [0x4F, 0x4B], [0x9A]] } :=
  blockInv_of_check [[0x4F, 0x4B]] (by decide)

theorem busyInv_delivered : BusyInv delivered :=
  fun _ => ⟨rfl, by decide, by decide, by decide, [0x70, 0x69, 0x6E, 0x67], rfl, by decide⟩

theorem busyInv_reset : BusyInv State.reset := fun h => by cases h

/-- `N` and `MAX_PAYLOAD` at both ends of their ranges. -/
theorem witness_ResetMeetsInvariants :
    Config.ok Config.reference ∧ Config.ok { n := 2, maxPayload := 2 } ∧ Config.ok { n := 2, maxPayload := 256 } := by decide

theorem witness_ParametersNeverChange : (∃ t, exec (.enq 0x11) State.reset = .next t) ∧ ∃ t, step State.reset = .next t :=
  ⟨⟨_, rfl⟩, ⟨_, rfl⟩⟩

/-- Both cursors at either end, empty and full. -/
theorem witness_EmptyFullAndCount :
    (2 ≤ full4.cfg.n ∧ full4.head < full4.cfg.n ∧ full4.tail < full4.cfg.n ∧ full4.full = true) ∧
    (queue4 3 3 []).empty = true ∧ (queue4 0 3 []).count = 1 := by decide

/-- The stored clause at the last slot, the dropped clause there too. -/
theorem witness_EnqueueStoresOrDrops :
    ((queue4 3 1 []).head < 4 ∧ ((queue4 3 1 []).head + 1) % 4 ≠ (queue4 3 1 []).tail) ∧
    (full4.head < full4.cfg.n ∧ (full4.head + 1) % full4.cfg.n = full4.tail) ∧
    ∃ t, exec (.enq 0x55) full4 = .next t := ⟨by decide, by decide, _, rfl⟩

theorem witness_EnqueueFrame :
    (∃ t, exec (.enq 0x55) full4 = .next t ∧ full4.full = true) ∧
    ∃ t, exec (.enq 0x55) State.reset = .next t ∧ State.reset.full = false := ⟨⟨_, rfl, by decide⟩, ⟨_, rfl, by decide⟩⟩

theorem witness_DequeueTakesOldest :
    (State.reset.tail < State.reset.cfg.n ∧ State.reset.head = State.reset.tail) ∧
    (queue4 1 3 [(3, 0x55)]).tail < 4 ∧ (queue4 1 3 [(3, 0x55)]).head ≠ (queue4 1 3 [(3, 0x55)]).tail ∧
    Memory.read (queue4 1 3 [(3, 0x55)]).slot 3 = some 0x55 := by decide

theorem witness_QueueIsBoundedSequence :
    full4.cfg.ok ∧ QueueInv full4 ∧ (∃ t, exec (.enq 0x55) full4 = .next t) ∧ ∃ t, exec .deq full4 = .next t :=
  ⟨by decide, inv_full4.queue, ⟨_, rfl⟩, ⟨_, rfl⟩⟩

theorem witness_DequeuedBytesAreAPrefixOfStored :
    Config.ok { n := 2, maxPayload := 2 } ∧ ∀ i, i ∈ [Instr.enq 0x11, .deq, .deq] → i = .deq ∨ ∃ b, i = .enq b := by
  refine ⟨by decide, ?_⟩
  intro i hi
  simp only [List.mem_cons, List.not_mem_nil, or_false] at hi
  rcases hi with rfl | rfl | rfl
  · exact .inr ⟨_, rfl⟩
  · exact .inl rfl
  · exact .inl rfl

theorem witness_FillAndDrain : State.reset.cfg.ok ∧ QueueInv State.reset ∧ State.reset.head = State.reset.tail :=
  ⟨by decide, inv_reset.queue, rfl⟩

theorem witness_StartMarkerOpensFrame : State.reset.pstate = .idle := rfl

theorem witness_OtherBytesIgnoredInIdle : State.reset.pstate = .idle ∧ (0xAB : Byte) ≠ 0xAA := by decide

/-- The shortest and the longest valid length. -/
theorem witness_ValidLengthStartsPayload : inLength.pstate = .lengthExpected ∧
    (0 < (0x01 : Byte).toNat ∧ (0x01 : Byte).toNat < inLength.cfg.maxPayload) ∧
    0 < (0x7F : Byte).toNat ∧ (0x7F : Byte).toNat < inLength.cfg.maxPayload := by decide

/-- Each clause: zero, the ceiling itself, `0xAA` at the default, and `MAX_PAYLOAD = 256`. -/
theorem witness_InvalidLengthReturnsToIdle : inLength.pstate = .lengthExpected ∧
    ((0 : Byte) = 0 ∨ inLength.cfg.maxPayload ≤ (0 : Byte).toNat) ∧
    ((0x80 : Byte) = 0 ∨ inLength.cfg.maxPayload ≤ (0x80 : Byte).toNat) ∧ inLength.cfg.maxPayload ≤ 170 ∧
    (let s := { inLength with cfg := { n := 16, maxPayload := 256 } };
      s.pstate = .lengthExpected ∧ s.cfg.maxPayload = 256 ∧ (0xFF : Byte) ≠ 0) := by decide

theorem witness_PayloadByteStoredAddedCounted :
    (inPayload.pstate = .payloadAccumulating ∧ inPayload.writeIndex < inPayload.cfg.maxPayload) ∧ BlockInv inPayload :=
  ⟨by decide, inv_inPayload⟩

theorem witness_WrongChecksumDiscardsFrame : inChecksum.pstate = .checksumExpected ∧ (0xD2 : Byte) ≠ inChecksum.acc := by decide

theorem witness_MatchingChecksumDelivers : inChecksum.pstate = .checksumExpected ∧
    inChecksum.declaredLength.toNat < inChecksum.cfg.maxPayload ∧
    Memory.readRange inChecksum.payloadBuffer 0 inChecksum.declaredLength.toNat = some [0x70, 0x69, 0x6E, 0x67] := by decide

/-- One state for each clause of the table. -/
theorem witness_FeedTransitionTable :
    isFeedRow (.feed 0xAA) = true ∧ isFeedRow .feedIdleSof = true ∧
    (State.reset.pstate = .idle ∧ ∃ t, exec .feedIdleSof State.reset = .next t ∧ t.pstate = .lengthExpected) ∧
    (inLength.pstate = .lengthExpected ∧ ∃ t, exec (.feed 0x80) inLength = .next t) ∧
    (inPayload.pstate = .payloadAccumulating ∧ ∃ t, exec (.feed 0x67) inPayload = .next t) ∧
    (inChecksum.pstate = .checksumExpected ∧ ∃ t, exec (.feed 0xAE) inChecksum = .next t) :=
  ⟨rfl, rfl, ⟨rfl, _, rfl, rfl⟩, ⟨rfl, _, rfl⟩, ⟨rfl, _, rfl⟩, ⟨rfl, _, rfl⟩⟩

theorem witness_FeedFrame : isFeedRow (.feedPayload 0x67) = true ∧ (∃ t, exec (.feedPayload 0x67) inPayload = .next t) ∧
    (∃ t, exec (.feed 0x80) inLength = .next t ∧ t.pstate = .idle) ∧ ∃ t, exec (.feed 0xD2) inChecksum = .next t ∧
      ¬ (inChecksum.pstate = .checksumExpected ∧ feedOperand (.feed 0xD2) = inChecksum.acc) :=
  ⟨rfl, ⟨_, rfl⟩, ⟨_, rfl, rfl⟩, _, rfl, by decide⟩

/-- Both branches: a row where it is selected, and the same row where it is not. -/
theorem witness_ClassRowIsFeedWhereSelected : isClassRow .feedIdleSof = true ∧
    decodeByte State.reset.ctx (feedOperand .feedIdleSof) = .feedIdleSof ∧
    decodeByte inLength.ctx (feedOperand .feedIdleSof) ≠ .feedIdleSof := by decide

/-- The shortest and the longest payload. -/
theorem witness_WellFormedFrameIsDeliveredOnce : (State.resetWith m4).cfg.ok ∧ (State.resetWith m4).pstate = .idle ∧
    (0 < [(0x41 : Byte)].length ∧ [(0x41 : Byte)].length < (State.resetWith m4).cfg.maxPayload) ∧
    0 < ([0x42, 0x42, 0x42] : List Byte).length ∧ ([0x42, 0x42, 0x42] : List Byte).length < (State.resetWith m4).cfg.maxPayload := by decide

theorem witness_BadFramesAreRejected : State.reset.cfg.ok ∧ State.reset.pstate = .idle ∧
    (0xD2 : Byte) ≠ cksum [0x70, 0x69, 0x6E, 0x67] ∧
    ((0x00 : Byte) = 0 ∨ State.reset.cfg.maxPayload ≤ (0x00 : Byte).toNat) ∧
    ((0x80 : Byte) = 0 ∨ State.reset.cfg.maxPayload ≤ (0x80 : Byte).toNat) := by decide

theorem witness_ParserReturnsToIdle : BlockInv { inLength with cfg := m4 } ∧ ([0xAA, 0xAA, 0xAA, 0xAA, 0xAA] : List Byte).length = m4.maxPayload + 1 :=
  ⟨blockInv_of_check [] (by decide), by decide⟩

theorem witness_ZeroFlushEndsInIdle : BlockInv inPayload ∧ inPayload.pstate ≠ .idle := ⟨inv_inPayload, by decide⟩

theorem witness_DeliveredPayloadHasItsChecksum :
    BlockInv inChecksum ∧ ∃ t, exec (.feed 0xAE) inChecksum = .next t ∧ t.deliveries ≠ inChecksum.deliveries :=
  ⟨inv_inChecksum, _, rfl, by decide⟩

theorem witness_PollIsDequeueThenFeed :
    delivered.busy = true ∧ (State.reset.busy = false ∧ State.reset.head = State.reset.tail) ∧
    (lastByteQueued.busy = false ∧ lastByteQueued.head ≠ lastByteQueued.tail ∧ lastByteQueued.tail < lastByteQueued.cfg.n ∧
      Memory.read lastByteQueued.slot lastByteQueued.tail = some 0xAE) ∧
    ∃ u, exec (.feed 0xAE) { lastByteQueued with tail := (lastByteQueued.tail + 1) % lastByteQueued.cfg.n } = .next u :=
  ⟨rfl, by decide, by decide, _, rfl⟩

theorem witness_RespondSendsAndResumes : (State.resetWith m4).busy = false ∧ delivered4.busy = true ∧
    (0 < ([0x42, 0x42, 0x42] : List Byte).length ∧ ([0x42, 0x42, 0x42] : List Byte).length < delivered4.cfg.maxPayload) ∧
    (([] : List Byte).length = 0 ∨ delivered4.cfg.maxPayload ≤ ([] : List Byte).length) ∧
    (([0x42, 0x42, 0x42, 0x42] : List Byte).length = 0 ∨ delivered4.cfg.maxPayload ≤ ([0x42, 0x42, 0x42, 0x42] : List Byte).length) := by decide

theorem witness_DrainEnds : (BlockInv lastByteQueued ∧ lastByteQueued.busy = false ∧ lastByteQueued.count = 1) ∧
    BlockInv (queue4 3 1 [(1, 0x22), (2, 0x33)]) ∧ (queue4 3 1 [(1, 0x22), (2, 0x33)]).busy = false ∧
    ∃ u, runOps (List.replicate 2 .poll) (queue4 3 1 [(1, 0x22), (2, 0x33)]) = .next u ∧ u.busy = false :=
  ⟨⟨inv_lastByteQueued, rfl, by decide⟩, inv_queue4, rfl, _, rfl, rfl⟩

/-- An endless execution: the last byte of V-S1's frame is polled, the delivery answered, and POLLs go on for ever. -/
def answeredState : Nat → State
  | 0 => lastByteQueued
  | 1 => (nextOf (exec .poll lastByteQueued)).getD lastByteQueued
  | k + 2 =>
    { delivered with
      head := 1, tail := 1, slot := [(0, 0xAE)], busy := false, tx := [[0xAA], [0x01], [0x41], [0x41]]
      outcomes := [.polled (some .csumOk), .sent] ++ List.replicate k (.polled none) }

def answeredOp : Nat → Option Instr
  | 0 => some .poll
  | 1 => some (.respond [0x41])
  | _ + 2 => some .poll

def answered : Execution where
  state := answeredState
  op := answeredOp
  agents k i h := by
    match k with
    | 0 => cases h; rfl
    | 1 => cases h; rfl
    | _ + 2 => cases h; rfl
  moves k i h := by
    match k with
    | 0 => cases h; rfl
    | 1 => cases h; rfl
    | k + 2 =>
      cases h
      show exec .poll (answeredState (k + 2)) = .next (answeredState (k + 3))
      simp only [answeredState, List.replicate_succ', ← List.append_assoc]
      rfl
  rests k h := by
    match k with
    | 0 => cases h
    | 1 => cases h
    | _ + 2 => cases h

theorem answered_answers : answered.environmentAnswers := by
  intro k hb
  match k with
  | 0 => cases hb
  | 1 => exact ⟨1, Nat.le_refl 1, .inr ⟨_, rfl⟩⟩
  | _ + 2 => cases hb

theorem witness_DrainEnds_execution : answered.consumerFair ∧ answered.environmentAnswers ∧ BlockInv (answered.state 0) ∧
    (answered.state 0).count = 1 ∧ (∀ j, 0 ≤ j → answered.op j ≠ some .reset) ∧ (answered.state 1).busy = true := by
  refine ⟨fun k _ => ⟨k + 2, by omega, rfl⟩, answered_answers, inv_lastByteQueued, by decide, fun j _ h => ?_, rfl⟩
  match j with
  | 0 => cases h
  | 1 => cases h
  | _ + 2 => cases h

theorem witness_SendFramesOrSkips : (State.resetWith m4).cfg.ok ∧
    (0 < ([0x42, 0x42, 0x42] : List Byte).length ∧ ([0x42, 0x42, 0x42] : List Byte).length < (State.resetWith m4).cfg.maxPayload) ∧
    (([] : List Byte).length = 0 ∨ (State.resetWith m4).cfg.maxPayload ≤ ([] : List Byte).length) ∧
    (([0x42, 0x42, 0x42, 0x42] : List Byte).length = 0 ∨ (State.resetWith m4).cfg.maxPayload ≤ ([0x42, 0x42, 0x42, 0x42] : List Byte).length) := by decide

theorem witness_SentFrameParsesBack : State.reset.cfg.ok ∧ delivered.cfg = State.reset.cfg ∧ delivered.pstate = .idle ∧
    0 < [(0x41 : Byte)].length ∧ [(0x41 : Byte)].length < State.reset.cfg.maxPayload := by decide

theorem witness_ChecksumIsRunningSum : ([0x20, 0xF0] : List Byte).Perm [0xF0, 0x20] := List.Perm.swap _ _ _

theorem witness_FrameDecodesExactlyWellFormed : 128 ≤ 256 ∧ decodeFrame 128 [0xAA, 0x01, 0x41, 0x41] = .instr (.frame [0x41]) :=
  ⟨by decide, rfl⟩

theorem witness_FrameIsItsBytesReceived :
    (0 < [(0x41 : Byte)].length ∧ [(0x41 : Byte)].length < (State.resetWith m4).cfg.maxPayload) ∧
    (([] : List Byte).length = 0 ∨ (State.resetWith m4).cfg.maxPayload ≤ ([] : List Byte).length) ∧
    (([0x42, 0x42, 0x42, 0x42] : List Byte).length = 0 ∨ (State.resetWith m4).cfg.maxPayload ≤ ([0x42, 0x42, 0x42, 0x42] : List Byte).length) := by decide

/-- Twelve payload bytes fill the fifteen usable slots exactly. -/
theorem witness_FrameArrivesWhole : BlockInv State.reset ∧ 0 < (List.replicate 12 (0x41 : Byte)).length ∧
    (List.replicate 12 (0x41 : Byte)).length < State.reset.cfg.maxPayload ∧
    State.reset.count + ((List.replicate 12 (0x41 : Byte)).length + 3) ≤ State.reset.cfg.n - 1 :=
  ⟨inv_reset, by decide, by decide, by decide⟩

/-- A row with an operand condition and a row with a condition on `acc`. -/
theorem witness_DecodeOfEncode : Config.ok m128 ∧ (ctxOf .lengthExpected 0).maxPayload = m128.maxPayload ∧
    (Instr.wf m128 (.feedLenOk 0x7F) = true ∧ Instr.selected (ctxOf .lengthExpected 0) (.feedLenOk 0x7F) = true) ∧
    Instr.wf m128 (.feedCsumOk 0xAE) = true ∧ Instr.selected (ctxOf .checksumExpected 0xAE) (.feedCsumOk 0xAE) = true := by decide

theorem witness_EncodeOfDecode : Config.ok m128 ∧ (ctxOf .idle 0).maxPayload = m128.maxPayload ∧
    decode (ctxOf .idle 0) { port := .byteClass, data := [0xAA] } = .instr .feedIdleSof := by decide

theorem witness_StepRunsDecodedOperation :
    (let s := { State.reset with pending := [{ port := .rx, data := [0x11] }] };
      s.cfg.ok ∧ s.pending = { port := .rx, data := [0x11] } :: [] ∧
      decode s.ctx { port := .rx, data := [0x11] } = .instr (.enq 0x11)) ∧
    (State.reset.cfg.ok ∧ State.reset.pending = [] ∧ State.reset.busy = false) ∧
    delivered.cfg.ok ∧ delivered.pending = [] ∧ delivered.busy = true := by decide

theorem witness_ScheduleRunsAsTrace : (State.reset.cfg.ok ∧
    ∀ i, i ∈ [Instr.enq 0xAA, .poll, .frame [0x41]] → isClassRow i = false ∧ i.wf State.reset.cfg = true) ∧
    (answered.state 0).cfg.ok ∧ (answered.state 0).pending = [] ∧ answered.opsBefore 2 = [.poll, .respond [0x41]] := by
  refine ⟨by decide, by decide, rfl, rfl⟩

theorem witness_StepKeepsInvariants : BlockInv State.reset ∧ (∃ t, exec (.enq 0x11) State.reset = .next t) ∧
    BlockInv lastByteQueued ∧ ∃ t, step lastByteQueued = .next t := ⟨inv_reset, ⟨_, rfl⟩, inv_lastByteQueued, ⟨_, rfl⟩⟩

/-- The step that sets `busy`, and a step while it is set. -/
theorem witness_AgentStepKeepsInterlock :
    (BlockInv lastByteQueued ∧ BusyInv lastByteQueued ∧ lastByteQueued.drivenByAgent = true ∧
      ∃ t, step lastByteQueued = .next t ∧ t.busy = true) ∧
    BlockInv delivered ∧ BusyInv delivered ∧ delivered.drivenByAgent = true ∧ ∃ t, step delivered = .next t :=
  ⟨⟨inv_lastByteQueued, fun h => (by cases h), rfl, _, rfl, rfl⟩, inv_delivered, busyInv_delivered, rfl, _, rfl⟩

theorem witness_StepNeverFaults : BlockInv inChecksum := inv_inChecksum

theorem witness_EnabledOperationsComplete : (BlockInv State.reset ∧ State.reset.busy = false) ∧
    (BlockInv delivered ∧ delivered.busy = true) ∧ 0 < [(0x41 : Byte)].length ∧ [(0x41 : Byte)].length < delivered.cfg.maxPayload :=
  ⟨⟨inv_reset, rfl⟩, ⟨inv_delivered, rfl⟩, by decide, by decide⟩

/-- One trace to each condition: a byte held, a payload byte next, the checksum byte next (V-S1). -/
theorem witness_AccessesStayInRange : m128.ok ∧
    (∃ s, runOps (rx [0x11]) (State.resetWith m128) = .next s ∧ s.head ≠ s.tail) ∧
    (∃ s, runOps (feeds [0xAA, 0x04, 0x70]) (State.resetWith m128) = .next s ∧ s.pstate = .payloadAccumulating) ∧
    ∃ s, runOps (feeds [0xAA, 0x04, 0x70, 0x69, 0x6E, 0x67]) (State.resetWith m128) = .next s ∧ s.pstate = .checksumExpected :=
  ⟨by decide, ⟨_, rfl, by decide⟩, ⟨_, rfl, rfl⟩, _, rfl, rfl⟩

/-- In states no run reaches: an unwritten byte (U11) and an index out of range (log 6) fault. -/
theorem test_access_faults :
    faultOf (exec .deq (queue4 1 3 [])) = some .slotUnwritten ∧
    faultOf (exec .deq (queue4 1 4 [])) = some .slotOutOfRange ∧
    faultOf (exec (.enq 0x11) (queue4 4 1 [])) = some .slotOutOfRange ∧
    faultOf (exec (.feed 0x11) (parser .payloadAccumulating 4 0 128 [])) = some .payloadOutOfRange ∧
    faultOf (exec (.feed 0x00) (parser .checksumExpected 0x80 0 0 [])) = some .payloadOutOfRange ∧
    faultOf (exec (.feed 0x00) (parser .checksumExpected 0x7F 0 0 [])) = some .payloadUnwritten := by decide

theorem witness_AgentsWriteOnlyTheirOwn :
    ((∃ t, exec (.enq 0x11) State.reset = .next t) ∧ agentOf (.enq 0x11) = .producer) ∧
    (∃ t, exec .poll lastByteQueued = .next t) ∧ agentOf .poll = .consumer := ⟨⟨⟨_, rfl⟩, rfl⟩, ⟨_, rfl⟩, rfl⟩

theorem witness_OutputsGrowOnlyAsSaid : (∃ t, exec (.send [0x41]) State.reset = .next t) ∧ Instr.send [0x41] ≠ .reset ∧
    (∃ t, exec .poll lastByteQueued = .next t) ∧ Instr.poll ≠ .reset := ⟨⟨_, rfl⟩, by decide, ⟨_, rfl⟩, by decide⟩

theorem witness_BusyIsSetByDeliveryOnly :
    (lastByteQueued.busy = false ∧ ∃ t, exec .poll lastByteQueued = .next t ∧ t.busy = true) ∧
    delivered.busy = true ∧ ∃ t, exec (.respond [0x41]) delivered = .next t ∧ t.busy = false :=
  ⟨⟨rfl, _, rfl, rfl⟩, rfl, _, rfl, rfl⟩

/-- A delivery that is never answered (R156): one more byte is received, then nothing happens any more. -/
def unanswered : Execution where
  state k := match k with
    | 0 => delivered
    | _ + 1 => { delivered with head := 1, slot := [(0, 0x11)], outcomes := [.stored 0x11] }
  op k := match k with
    | 0 => some (.enq 0x11)
    | _ + 1 => none
  agents k i h := by
    match k with
    | 0 => cases h; rfl
    | _ + 1 => cases h
  moves k i h := by
    match k with
    | 0 => cases h; rfl
    | _ + 1 => cases h
  rests k h := by
    match k with
    | 0 => cases h
    | _ + 1 => rfl

theorem witness_BusyIsSetByDeliveryOnly_hang : BlockInv (unanswered.state 0) ∧ (unanswered.state 0).busy = true ∧
    ∀ j, 0 ≤ j → ¬ unanswered.waitEndsAt j := by
  refine ⟨inv_delivered, rfl, fun j _ h => ?_⟩
  match j with
  | 0 => rcases h with h | ⟨_, h⟩ <;> cases h
  | _ + 1 => rcases h with h | ⟨_, h⟩ <;> cases h

/-- Each of the four errors. -/
theorem witness_TransportErrorsAreSilent :
    (∃ t, exec (.enq 0x44) full4 = .next t ∧ t.outcomes = full4.outcomes ++ [.dropped 0x44] ∧
      (OpOutcome.dropped 0x44).error = some .queueOverflow) ∧
    (∃ t, exec (.feed 0x80) inLength = .next t ∧ t.outcomes = inLength.outcomes ++ [.fed .lenBad] ∧
      (OpOutcome.fed .lenBad).error = some .lengthViolation) ∧
    (∃ t, exec (.feedCsumBad 0xD2) inChecksum = .next t ∧ t.outcomes = inChecksum.outcomes ++ [.fed .csumBad] ∧
      (OpOutcome.fed .csumBad).error = some .checksumMismatch) ∧
    (∃ t, exec (.respond []) delivered = .next t ∧ t.outcomes = delivered.outcomes ++ [.skipped] ∧
      OpOutcome.skipped.error = some .emitSkipped) :=
  ⟨⟨_, rfl, rfl, rfl⟩, ⟨_, rfl, rfl, rfl⟩, ⟨_, rfl, rfl, rfl⟩, ⟨_, rfl, rfl, rfl⟩⟩

/-- V-Q6: full, empty, and neither. -/
theorem witness_SameEdgeIsSomeInterleaving :
    (BlockInv full4 ∧ full4.busy = false ∧ full4.empty = false ∧ full4.full = true) ∧
    (BlockInv State.reset ∧ State.reset.busy = false ∧ State.reset.empty = true ∧ State.reset.full = false) ∧
    (BlockInv (queue4 3 1 [(1, 0x22), (2, 0x33)]) ∧ (queue4 3 1 [(1, 0x22), (2, 0x33)]).empty = false ∧
      (queue4 3 1 [(1, 0x22), (2, 0x33)]).full = false) ∧
    BlockInv delivered ∧ delivered.busy = true :=
  ⟨⟨inv_full4, rfl, by decide, by decide⟩, ⟨inv_reset, rfl, by decide, by decide⟩, ⟨inv_queue4, by decide, by decide⟩,
    inv_delivered, rfl⟩

/-- Quiescent with the parser in mid-frame. -/
theorem witness_QuiescentPollChangesNothing : inPayload.quiescent = true := by decide

theorem witness_DeliveredPayloadStandsAtPorts :
    (BusyInv delivered ∧ delivered.frameValid = true) ∧ BusyInv State.reset ∧ State.reset.frameValid = false :=
  ⟨⟨busyInv_delivered, rfl⟩, busyInv_reset, rfl⟩

def noPorts : PortsIn :=
  { rst := false, rxValid := false, rxData := 0, poll := false, respValid := false, respData := 0, respLast := false, txReady := false }

/-- The block beside which one response byte has been taken. -/
def awaiting : Harness := { block := delivered, respBytes := [0x4F], txTaken := 0 }
def free : Harness := { block := lastByteQueued, respBytes := [], txTaken := 0 }

/-- The edges with no consumer operation, busy and not, with and without ENQ. -/
theorem witness_EdgePerformsPortOperations_none :
    (noPorts.rst = false ∧ awaiting.block.busy = true ∧ noPorts.respLast = false ∧ noPorts.rxValid = false) ∧
    (free.block.busy = false ∧ noPorts.poll = false ∧ { noPorts with rxValid := true }.rxValid = true ∧
      ∃ t, exec (.enq noPorts.rxData) free.block = .next t) ∧
    ∃ t, exec (.enq noPorts.rxData) awaiting.block = .next t :=
  ⟨⟨rfl, rfl, rfl, rfl⟩, ⟨rfl, rfl, rfl, _, rfl⟩, _, rfl⟩

/-- RESPOND of the byte kept and the byte of this edge, alone and with an ENQ. -/
theorem witness_EdgePerformsPortOperations_respond :
    let i := { noPorts with respValid := true, respData := 0x4B, respLast := true }
    i.rst = false ∧ awaiting.block.busy = true ∧ i.respLast = true ∧ i.rxValid = false ∧
    (∃ t, exec (.respond [0x4F, 0x4B]) awaiting.block = .next t) ∧ { i with rxValid := true }.rxValid = true ∧
    ∃ t, sameEdge i.rxData (.respond [0x4F, 0x4B]) awaiting.block = .next t :=
  ⟨rfl, rfl, rfl, rfl, ⟨_, rfl⟩, rfl, _, rfl⟩

/-- POLL, alone and with an ENQ. -/
theorem witness_EdgePerformsPortOperations_poll :
    let i := { noPorts with poll := true }
    i.rst = false ∧ free.block.busy = false ∧ i.poll = true ∧ i.rxValid = false ∧ (∃ t, exec .poll free.block = .next t) ∧
    { i with rxValid := true }.rxValid = true ∧ ∃ t, sameEdge i.rxData .poll free.block = .next t :=
  ⟨rfl, rfl, rfl, rfl, ⟨_, rfl⟩, rfl, _, rfl⟩

/-- RESET, and the invariants of the last clause. -/
theorem witness_EdgePerformsPortOperations : { noPorts with rst := true }.rst = true ∧ BlockInv awaiting.block ∧ BlockInv free.block :=
  ⟨rfl, inv_delivered, inv_lastByteQueued⟩

/-- A byte stays at the transmit port while the collaborator is not ready; with nothing left there is none. -/
theorem witness_TransmitPortFollowsOutput_data :
    let h : Harness := { block := { State.reset with tx := [[0xAA], [0x01], [0x41], [0x41]] }, respBytes := [], txTaken := 1 }
    h.block.tx.flatten = [0xAA] ++ [0x01, 0x41, 0x41] ∧ h.txTaken = ([0xAA] : List Byte).length ∧ h.txData = some 0x01 ∧
      noPorts.rst = false ∧ noPorts.txReady = false ∧ (∃ h', h.edge noPorts = .next h') ∧
      { h with txTaken := 4 }.block.tx.flatten = [0xAA, 0x01, 0x41, 0x41] ++ [] :=
  ⟨rfl, rfl, rfl, rfl, rfl, ⟨_, rfl⟩, rfl⟩

/-- An edge that takes the last transmit byte. -/
theorem witness_TransmitPortFollowsOutput :
    let h : Harness := { block := { State.reset with tx := [[0xAA], [0x01], [0x41], [0x41]] }, respBytes := [], txTaken := 3 }
    h.txTaken ≤ h.block.tx.flatten.length ∧ h.txData = some 0x41 ∧
      ∃ h', h.edge { noPorts with txReady := true } = .next h' ∧ h'.txTaken = 4 := ⟨by decide, rfl, _, rfl, rfl⟩

/-- One string for each form of the table. -/
theorem witness_DispatcherFollowsCommandTable :
    Dispatcher.trim (Dispatcher.untilTerm [0x20, 0x70, 0x69, 0x6E, 0x67, 0x0D, 0x0A]) = Dispatcher.strPing ∧
    (Dispatcher.trim (Dispatcher.untilTerm (Dispatcher.strLed ++ Dispatcher.strOff)) = Dispatcher.strLed ++ Dispatcher.strOff ∧
      Dispatcher.trim Dispatcher.strOff = Dispatcher.strOff ∧ Dispatcher.trim Dispatcher.strOn = Dispatcher.strOn ∧
      Dispatcher.trim [0x62] ≠ Dispatcher.strOn ∧ Dispatcher.trim [0x62] ≠ Dispatcher.strOff) ∧
    Dispatcher.trim (Dispatcher.untilTerm (Dispatcher.strMotor ++ [0x31])) = Dispatcher.strMotor ++ [0x31] ∧
    Dispatcher.colon ∉ [(0x31 : Byte)] ∧
    Dispatcher.trim (Dispatcher.untilTerm (Dispatcher.strMotor ++ [0x31] ++ [Dispatcher.colon] ++ [0x31])) =
      Dispatcher.strMotor ++ [0x31] ++ [Dispatcher.colon] ++ [0x31] := by decide

/-- The last form: a string that is none of the others. -/
theorem witness_DispatcherFollowsCommandTable_unknown :
    let cmd := Dispatcher.trim (Dispatcher.untilTerm [0x78, 0x79, 0x7A])
    cmd ≠ Dispatcher.strPing ∧ (∀ rest, cmd ≠ Dispatcher.strLed ++ rest) ∧ ∀ rest, cmd ≠ Dispatcher.strMotor ++ rest := by
  have h : Dispatcher.trim (Dispatcher.untilTerm [0x78, 0x79, 0x7A]) = [0x78, 0x79, 0x7A] := by decide
  rw [h]
  exact ⟨by decide, fun _ e => by simp [Dispatcher.strLed] at e, fun _ e => by simp [Dispatcher.strMotor] at e⟩

theorem witness_ArmingGatesReception :
    (let w : World := { block := State.reset, armed := true, digitalOut := false };
      w.armed = true ∧ ∃ t, exec (.enq 0x11) w.block = .next t) ∧ (World.initial m128).armed = false := ⟨⟨rfl, _, rfl⟩, rfl⟩

/-- The smallest ceiling the statement admits and a payload that fills the queue exactly. -/
theorem witness_CommandIsAnsweredEndToEnd :
    let w := World.initial { n := 8, maxPayload := 19 }
    BlockInv w.block ∧ w.block.quiescent = true ∧ w.block.pstate = .idle ∧ 19 ≤ w.block.cfg.maxPayload ∧
      0 < Dispatcher.strPing.length ∧ Dispatcher.strPing.length < w.block.cfg.maxPayload ∧
      Dispatcher.strPing.length + 3 ≤ w.block.cfg.n - 1 :=
  ⟨blockInv_of_check [] (by decide), by decide, rfl, by decide, by decide, by decide, by decide⟩

end Sys2Proof.Tests
end

section
/-! PROOF. What the operations keep in any trace (10_state.md R25, R29, 42_frameemitter.md R97), and that no access of either memory can
fault under it (20_memory.md R36). -/

namespace Sys2Proof.Machine

variable {s t u : State} {b : Byte} {k : ByteClass} {o : OpOutcome} {r : Option Byte} {i : Instr}

/-! Reset -/

theorem queueInv_resetWith {c : Config} (hn : 0 < c.n) : QueueInv (State.resetWith c) where
  head_lt := hn
  tail_lt := hn
  written := fun k hk => absurd hk (Nat.not_lt_zero k)
  slot_wf := rfl
  slot_range := fun a b h => by cases h

theorem parserInv_resetWith {c : Config} (hm : 0 < c.maxPayload) : ParserInv (State.resetWith c) where
  index_lt := hm
  accumulating := fun h => by cases h
  checksum := fun h => by cases h
  buffer_wf := rfl
  buffer_range := fun a b h => by cases h

theorem blockInv_resetWith {c : Config} (hc : c.ok) : BlockInv (State.resetWith c) where
  params := hc
  queue := queueInv_resetWith (by have := hc.1; omega)
  parser := parserInv_resetWith (by have := hc.2.1; omega)
  delivery := fun d hd => by cases hd
  tx := ⟨[], by simp, rfl⟩

/-! The parser's invariant, by what a byte does to the parser -/

/-- Outside the payload and checksum states the parser's invariant asks nothing of `pstate`. -/
theorem ParserInv.setPstate (p : ParserInv s) {v : PState} (ha : v ≠ .payloadAccumulating) (hc : v ≠ .checksumExpected) :
    ParserInv (s.setPstate v) where
  index_lt := p.index_lt
  accumulating := fun h => absurd h ha
  checksum := fun h => absurd h hc
  buffer_wf := p.buffer_wf
  buffer_range := p.buffer_range

/-- A valid length byte opens an empty payload. -/
theorem ParserInv.openPayload (p : ParserInv s) (hb : 0 < b.toNat ∧ b.toNat < s.cfg.maxPayload) :
    ParserInv ((((s.setDeclaredLength b).setAcc 0).setWriteIndex 0).setPstate .payloadAccumulating) where
  index_lt := show 0 < s.cfg.maxPayload by omega
  accumulating := fun _ => ⟨hb.1, hb.2, hb.1, [], rfl, rfl⟩
  checksum := fun h => by cases h
  buffer_wf := p.buffer_wf
  buffer_range := p.buffer_range

/-- A write below the ceiling keeps every written index below it. -/
theorem ParserInv.write_range (p : ParserInv s) {j : Nat} (hj : j < s.cfg.maxPayload) (a : Nat) (v : Byte)
    (h : Memory.read (Memory.write s.payloadBuffer j b) a = some v) : a < s.cfg.maxPayload := by
  rw [Memory.read_write] at h
  split at h
  · subst a; exact hj
  · exact p.buffer_range a v h

/-- A payload byte extends the bytes that `acc` sums by one (I3). -/
theorem ParserInv.storeByte (p : ParserInv s) (hs : s.pstate = .payloadAccumulating) : ParserInv (afterPayload b s) := by
  obtain ⟨hpos, hlen, hlt, q, hq, hacc⟩ := p.accumulating hs
  have hread : Memory.readRange (Memory.write s.payloadBuffer s.writeIndex b) 0 (s.writeIndex + 1) = some (q ++ [b]) := by
    refine Memory.readRange_succ_last ?_ (by simp)
    rw [Memory.readRange_write_outside _ _ (by omega), hq]
  have hsum : addByte s.acc b = cksum (q ++ [b]) := by rw [cksum_snoc, ← hacc, addByte]
  refine ⟨?_, ?_, ?_, ?_, ?_⟩ <;> simp only [afterPayload_pstate, afterPayload_declaredLength, afterPayload_cfg,
    afterPayload_writeIndex, afterPayload_payloadBuffer, afterPayload_acc]
  · omega
  · intro h
    split at h
    · cases h
    · exact ⟨hpos, hlen, by omega, _, hread, hsum⟩
  · intro h
    split at h
    · rename_i hlast
      exact ⟨hpos, hlen, hlast, _, hlast ▸ hread, hsum⟩
    · rw [hs] at h; cases h
  · exact Memory.wf_write _ _ p.buffer_wf
  · exact p.write_range (by omega)

/-- The terminator goes below the ceiling, and the parser returns to `Idle`. -/
theorem ParserInv.terminate (p : ParserInv s) (hi : s.declaredLength.toNat < s.cfg.maxPayload) (q : List Byte) :
    ParserInv (afterDelivery q s) where
  index_lt := p.index_lt
  accumulating := fun h => by cases h
  checksum := fun h => by cases h
  buffer_wf := Memory.wf_write _ _ p.buffer_wf
  buffer_range := p.write_range hi

/-! What each shared operation keeps -/

/-- A change of the parser's registers and buffer alone leaves only the parser's invariant to show. -/
theorem BlockInv.withParser (h : BlockInv s) (hc : t.cfg = s.cfg) (hq : KeepsQueue s t) (ho : KeepsOutputs s t) (p : ParserInv t) :
    BlockInv t where
  params := hc ▸ h.params
  queue := h.queue.congr hc hq
  parser := p
  delivery := by simpa only [DeliveryInv, hc, ho.1] using h.delivery
  tx := by simpa only [TxInv, hc, ho.2] using h.tx

theorem BlockInv.of_feedByte (h : BlockInv s) (hf : feedByte b s = .ok (k, u)) : BlockInv u := by
  obtain ⟨hq, -, htx, ⟨hc, -⟩, -⟩ := feedByte_keeps hf
  have keep : ParserInv u → u.deliveries = s.deliveries → BlockInv u := fun p hd => h.withParser hc hq ⟨hd, htx⟩ p
  rcases feedByte_cases hf with ⟨-, -, -, rfl⟩ | ⟨-, -, -, rfl⟩ | ⟨-, hb, -, rfl⟩ | ⟨-, -, -, rfl⟩ | ⟨hs, -, -, rfl⟩ |
    ⟨-, -, -, rfl⟩ | ⟨p, hs, -, -, hi, hp, rfl⟩
  · exact keep (h.parser.setPstate (by decide) (by decide)) rfl
  · exact h
  · exact keep (h.parser.openPayload hb) rfl
  · exact keep (h.parser.setPstate (by decide) (by decide)) rfl
  · exact keep (h.parser.storeByte hs) (by simp)
  · exact keep (h.parser.setPstate (by decide) (by decide)) rfl
  · refine ⟨h.params, h.queue.congr hc hq, h.parser.terminate hi p, fun d hd => ?_, h.tx⟩
    rw [afterDelivery_deliveries, List.mem_append, List.mem_singleton] at hd
    rcases hd with hd | rfl
    · exact h.delivery d hd
    · exact ⟨Memory.readRange_length hp, (h.parser.checksum hs).1, hi⟩

theorem BlockInv.of_enqueue (h : BlockInv s) (he : enqueue b s = .ok (o, t)) : BlockInv t := by
  rcases enqueue_cases he with ⟨-, -, rfl⟩ | ⟨hf, -, -, rfl⟩
  · exact h
  · exact ⟨h.params, h.queue.store h.params.1 b hf, h.parser.congr rfl ⟨rfl, rfl, rfl, rfl⟩ rfl, h.delivery, h.tx⟩

theorem BlockInv.of_dequeue (h : BlockInv s) (hd : dequeue s = .ok (r, t)) : BlockInv t := by
  rcases dequeue_cases hd with ⟨-, -, rfl⟩ | ⟨b, he, -, -, -, rfl⟩
  · exact h
  · exact ⟨h.params, h.queue.take he, h.parser.congr rfl ⟨rfl, rfl, rfl, rfl⟩ rfl, h.delivery, h.tx⟩

theorem BlockInv.setBusy (h : BlockInv s) (v : Bool) : BlockInv (s.setBusy v) :=
  h.congr rfl ⟨rfl, rfl, rfl⟩ ⟨rfl, rfl, rfl, rfl⟩ rfl ⟨rfl, rfl⟩

/-- SEND's two ends: a whole frame added to the output, or nothing. -/
theorem BlockInv.of_sendBody (h : BlockInv s) (resp : List Byte) : BlockInv (sendBody resp s).2 := by
  cases hl : lengthInRange s.cfg.maxPayload resp.length
  · rw [sendBody_skipped hl]; exact h
  · rw [sendBody_sent hl]
    obtain ⟨ps, hps, htx⟩ := h.tx
    refine ⟨h.params, h.queue.congr rfl ⟨rfl, rfl, rfl⟩, h.parser.congr rfl ⟨rfl, rfl, rfl, rfl⟩ rfl, h.delivery, ps ++ [resp], ?_, ?_⟩
    · intro p hp
      rcases List.mem_append.mp hp with hp | hp
      · exact hps p hp
      · rw [List.mem_singleton.mp hp]; exact lengthInRange_iff.mp hl
    · simp [htx]

theorem sendBody_cfg (resp : List Byte) (s : State) : (sendBody resp s).2.cfg = s.cfg := by
  unfold sendBody; split <;> rfl

/-! No access faults: each shared operation completes under the invariant -/

theorem BlockInv.enqueue_completes (h : BlockInv s) (b : Byte) : ∃ o t, enqueue b s = .ok (o, t) := by
  cases hf : s.full
  · exact ⟨_, _, enqueue_room b hf h.queue.head_lt⟩
  · exact ⟨_, _, enqueue_full b hf⟩

theorem BlockInv.dequeue_completes (h : BlockInv s) : ∃ r t, dequeue s = .ok (r, t) := by
  cases he : s.empty
  · obtain ⟨b, hb⟩ := h.queue.first_written he
    exact ⟨_, _, dequeue_some he h.queue.tail_lt hb⟩
  · exact ⟨_, _, dequeue_empty he⟩

theorem BlockInv.feedByte_completes (h : BlockInv s) (b : Byte) : ∃ k u, feedByte b s = .ok (k, u) := by
  cases hp : s.pstate
  case idle =>
    by_cases hb : b = sof
    · exact ⟨_, _, hb ▸ feedByte_idleSof hp⟩
    · exact ⟨_, _, feedByte_idleSkip hp hb⟩
  case lengthExpected =>
    by_cases hb : 0 < b.toNat ∧ b.toNat < s.cfg.maxPayload
    · exact ⟨_, _, feedByte_lenOk hp hb⟩
    · exact ⟨_, _, feedByte_lenBad hp hb⟩
  case payloadAccumulating => exact ⟨_, _, feedByte_payload hp h.parser.index_lt⟩
  case checksumExpected =>
    by_cases hb : b = s.acc
    · obtain ⟨-, hi, -, p, hr, -⟩ := h.parser.checksum hp
      exact ⟨_, _, hb ▸ feedByte_csumOk hp hi hr⟩
    · exact ⟨_, _, feedByte_csumBad hp hb⟩

/-- POLL, once enabled, completes, keeps the invariant and keeps the parameters. -/
theorem BlockInv.pollBody_completes (h : BlockInv s) : ∃ o t, pollBody s = .ok (o, t) ∧ BlockInv t ∧ t.cfg = s.cfg := by
  obtain ⟨r, v, hd⟩ := h.dequeue_completes
  have hv := h.of_dequeue hd
  have hcv : v.cfg = s.cfg := by
    rcases dequeue_cases hd with ⟨-, -, rfl⟩ | ⟨b, -, -, -, -, rfl⟩ <;> rfl
  cases r with
  | none => exact ⟨.polled none, v, by simp [pollBody, hd], hv, hcv⟩
  | some b =>
    obtain ⟨k, u, hf⟩ := hv.feedByte_completes b
    have hu := hv.of_feedByte hf
    obtain ⟨-, -, -, ⟨hcu, -⟩, -⟩ := feedByte_keeps hf
    refine ⟨.polled (some k), if k = .csumOk then u.setBusy true else u, by simp [pollBody, hd, hf], ?_, ?_⟩
    · split
      · exact hu.setBusy true
      · exact hu
    · split <;> exact hcu.trans hcv

/-! Operations and traces -/

/-- What an operation at parameters `c` may end in: a state that meets the invariant at the same parameters, or a refusal; never a
fault. -/
def SafeAt (c : Config) : Host.Outcome State Fault Refusal → Prop
  | .next t => BlockInv t ∧ t.cfg = c
  | .fault _ => False
  | .refused _ => True

theorem safeAt_record {c : Config} (h : BlockInv t) (hc : t.cfg = c) (o : OpOutcome) : SafeAt c (.next (t.record o)) :=
  ⟨h.record o, hc⟩

/-- The class that a byte-class row is of. -/
def rowClass : Instr → Option ByteClass
  | .feedIdleSof => some .idleSof
  | .feedIdleSkip _ => some .idleSkip
  | .feedLenBadZero => some .lenBad
  | .feedLenBadOver _ => some .lenBad
  | .feedLenOk _ => some .lenOk
  | .feedPayload _ => some .payload
  | .feedCsumOk _ => some .csumOk
  | .feedCsumBad _ => some .csumBad
  | _ => none

theorem rowClass_instrOfClass (k : ByteClass) (b : Byte) : rowClass (instrOfClass k b) = some k := by
  cases k
  case lenBad => simp only [instrOfClass]; split <;> rfl
  all_goals rfl

/-- A row says of which class its byte is. -/
theorem class_of_row (hi : rowClass i = some k) (k' : ByteClass) (h : instrOfClass k' b = i) : k' = k := by
  rw [← h, rowClass_instrOfClass] at hi
  exact Option.some.inj hi

/-- A byte-class row is FEED of its byte where the state selects it, and refused elsewhere (R58). -/
theorem exec_classRow (s : State) (hi : isClassRow i = true) : exec i s =
    if decodeByte s.ctx (feedOperand i) = i then exec (.feed (feedOperand i)) s else .refused .classNotSelected := by
  cases i with
  | feedIdleSof => exact finishClass_eq_feed (k := .idleSof) rfl (class_of_row rfl)
  | feedIdleSkip b => exact finishClass_eq_feed (k := .idleSkip) rfl (class_of_row rfl)
  | feedLenBadZero => exact finishClass_eq_feed (k := .lenBad) rfl (class_of_row rfl)
  | feedLenBadOver b => exact finishClass_eq_feed (k := .lenBad) rfl (class_of_row rfl)
  | feedLenOk b => exact finishClass_eq_feed (k := .lenOk) rfl (class_of_row rfl)
  | feedPayload b => exact finishClass_eq_feed (k := .payload) rfl (class_of_row rfl)
  | feedCsumOk b => exact finishClass_eq_feed (k := .csumOk) rfl (class_of_row rfl)
  | feedCsumBad b => exact finishClass_eq_feed (k := .csumBad) rfl (class_of_row rfl)
  | feed b => simp [isClassRow, feedOperand] at hi
  | _ => cases hi

theorem exec_safe_enq (h : BlockInv s) (b : Byte) : SafeAt s.cfg (exec (.enq b) s) := by
  obtain ⟨o, t, he⟩ := h.enqueue_completes b
  have hc : t.cfg = s.cfg := by
    rcases enqueue_cases he with ⟨-, -, rfl⟩ | ⟨-, -, -, rfl⟩ <;> rfl
  rw [exec, execEnq, he, finish_ok]
  exact safeAt_record (h.of_enqueue he) hc o

theorem exec_safe_deq (h : BlockInv s) : SafeAt s.cfg (exec .deq s) := by
  obtain ⟨r, t, hd⟩ := h.dequeue_completes
  have hc : t.cfg = s.cfg := by
    rcases dequeue_cases hd with ⟨-, -, rfl⟩ | ⟨b, -, -, -, -, rfl⟩ <;> rfl
  rw [exec, execDeq, hd]
  exact safeAt_record (h.of_dequeue hd) hc _

theorem exec_safe_feed (h : BlockInv s) (b : Byte) : SafeAt s.cfg (exec (.feed b) s) := by
  obtain ⟨k, u, hf⟩ := h.feedByte_completes b
  obtain ⟨-, -, -, ⟨hc, -⟩, -⟩ := feedByte_keeps hf
  rw [exec_feed_of_ok hf]
  exact safeAt_record (h.of_feedByte hf) hc _

theorem exec_safe_classRow (h : BlockInv s) (hi : isClassRow i = true) : SafeAt s.cfg (exec i s) := by
  rw [exec_classRow s hi]
  split
  · exact exec_safe_feed h _
  · trivial

theorem exec_safe_poll (h : BlockInv s) : SafeAt s.cfg (exec .poll s) := by
  rw [exec, execPoll]
  split
  · trivial
  · obtain ⟨o, t, hp, ht, hc⟩ := h.pollBody_completes
    rw [hp, finish_ok]
    exact safeAt_record ht hc o

theorem exec_safe_send (h : BlockInv s) (resp : List Byte) : SafeAt s.cfg (exec (.send resp) s) :=
  safeAt_record (h.of_sendBody resp) (sendBody_cfg resp s) _

theorem exec_safe_respond (h : BlockInv s) (resp : List Byte) : SafeAt s.cfg (exec (.respond resp) s) := by
  rw [exec, execRespond]
  split
  · exact safeAt_record ((h.of_sendBody resp).setBusy false) (sendBody_cfg resp s) _
  · trivial

theorem exec_safe_reset (h : BlockInv s) : SafeAt s.cfg (exec .reset s) :=
  ⟨(blockInv_resetWith h.params).congr rfl ⟨rfl, rfl, rfl⟩ ⟨rfl, rfl, rfl, rfl⟩ rfl ⟨rfl, rfl⟩, rfl⟩

/-- A trace of safe operations is safe. -/
theorem runOps_safe_of {ops : List Instr} (hops : ∀ i, i ∈ ops → ∀ s, BlockInv s → SafeAt s.cfg (exec i s)) (h : BlockInv s) :
    SafeAt s.cfg (runOps ops s) := by
  induction ops generalizing s with
  | nil => exact ⟨h, rfl⟩
  | cons i ops ih =>
    have hi := hops i List.mem_cons_self s h
    rw [runOps]
    cases hx : exec i s with
    | next t =>
      rw [hx] at hi
      obtain ⟨ht, hc⟩ := hi
      rw [← hc]
      exact ih (fun j hj => hops j (List.mem_cons_of_mem i hj)) ht
    | fault f => rw [hx] at hi; exact hi
    | refused r => trivial

theorem exec_safe_frame (h : BlockInv s) (p : List Byte) : SafeAt s.cfg (exec (.frame p) s) := by
  rw [exec, execFrame]
  split
  · rw [enqueueAll_eq_runOps]
    refine runOps_safe_of (fun i hi s hs => ?_) h
    obtain ⟨b, -, rfl⟩ := List.mem_map.mp hi
    exact exec_safe_enq hs b
  · trivial

/-- Every operation keeps the invariant and the parameters, and none faults. -/
theorem exec_safe (h : BlockInv s) (i : Instr) : SafeAt s.cfg (exec i s) := by
  cases i with
  | enq b => exact exec_safe_enq h b
  | deq => exact exec_safe_deq h
  | feed b => exact exec_safe_feed h b
  | poll => exact exec_safe_poll h
  | respond resp => exact exec_safe_respond h resp
  | send resp => exact exec_safe_send h resp
  | reset => exact exec_safe_reset h
  | frame p => exact exec_safe_frame h p
  | feedIdleSof => exact exec_safe_classRow h rfl
  | feedIdleSkip b => exact exec_safe_classRow h rfl
  | feedLenBadZero => exact exec_safe_classRow h rfl
  | feedLenBadOver b => exact exec_safe_classRow h rfl
  | feedLenOk b => exact exec_safe_classRow h rfl
  | feedPayload b => exact exec_safe_classRow h rfl
  | feedCsumOk b => exact exec_safe_classRow h rfl
  | feedCsumBad b => exact exec_safe_classRow h rfl

/-- Every trace of operations keeps the invariant and the parameters, and none faults. -/
theorem runOps_safe (h : BlockInv s) (ops : List Instr) : SafeAt s.cfg (runOps ops s) :=
  runOps_safe_of (fun i _ _ hs => exec_safe hs i) h

/-- Settles O46: the trace keeps `BlockInv` from reset (`runOps_safe`), and `BlockInv` bounds every access. -/
theorem accessesStayInRange : Obligations.AccessesStayInRange := by
  intro c ops hc
  have safe : SafeAt c (runOps ops (State.resetWith c)) := runOps_safe (blockInv_resetWith hc) ops
  refine ⟨fun f hf => by rw [hf] at safe; exact safe, fun s hs => ?_⟩
  rw [hs] at safe
  obtain ⟨inv, rfl⟩ := safe
  refine ⟨Nat.le_sub_one_of_lt inv.queue.head_lt, Nat.le_sub_one_of_lt inv.queue.tail_lt, fun hne => ?_, fun hp => ?_, fun hp => ?_,
    fun a b h => Nat.le_sub_one_of_lt (inv.queue.slot_range a b h),
    fun a b h => Nat.le_sub_one_of_lt (inv.parser.buffer_range a b h)⟩
  · exact inv.queue.first_written (by simp [State.empty, hne])
  · obtain ⟨-, hlen, hidx, -⟩ := inv.parser.accumulating hp
    exact ⟨hidx, Nat.le_sub_one_of_lt hlen⟩
  · obtain ⟨-, hlen, -, p, hread, -⟩ := inv.parser.checksum hp
    obtain ⟨hl, hk⟩ := Memory.readRange_eq_some.mp hread
    refine ⟨Nat.le_sub_one_of_lt hlen, fun a ha => ⟨p[a], ?_⟩⟩
    simpa [hl, ha] using hk a ha

end Sys2Proof.Machine
end

section
/-! PROOF. What ENQ and DEQ do to the state (40_bytequeue.md R70, R72). -/

namespace Sys2Proof.Machine

variable {s t u : State} {b : Byte} {o : OpOutcome} {r : Option Byte}

/-! The conditions of R17 in the spec's own arithmetic -/

theorem empty_iff_head_eq_tail : s.empty = true ↔ s.head = s.tail := decide_eq_true_iff

theorem full_iff_mod (hh : s.head < s.cfg.n) : s.full = true ↔ (s.head + 1) % s.cfg.n = s.tail := by
  rw [← advance_eq_mod hh]; exact decide_eq_true_iff

/-! ENQ and DEQ from the queue's two operations -/

theorem exec_enq_of_ok (h : enqueue b s = .ok (o, u)) : exec (.enq b) s = .next (u.record o) := by
  rw [exec, execEnq, h, finish_ok]

theorem exec_enq_next (h : exec (.enq b) s = .next t) : ∃ o u, enqueue b s = .ok (o, u) ∧ t = u.record o :=
  finish_eq_next h

theorem exec_deq_of_ok (h : dequeue s = .ok (r, u)) : exec .deq s = .next (u.record (.dequeued r)) := by
  rw [exec, execDeq, h]

/-- ENQ reaches no output port (R32): stored or dropped, it leaves the registers and the buffer behind them alone. -/
theorem exec_enq_keeps_ports (h : exec (.enq b) s = .next t) :
    t.frameValid = s.frameValid ∧ t.frameLen = s.frameLen ∧ (∀ a, t.frameRdata a = s.frameRdata a) ∧ t.tx = s.tx := by
  obtain ⟨o, u, he, rfl⟩ := exec_enq_next h
  rcases enqueue_cases he with ⟨-, -, rfl⟩ | ⟨-, -, -, rfl⟩
  · exact ⟨rfl, rfl, fun _ => rfl, rfl⟩
  · exact ⟨rfl, rfl, fun _ => rfl, rfl⟩

/-- Settles O5: R70's two cases are `enqueue_full` and `enqueue_room`, told apart by the spec's own `mod` (`full_iff_mod`). -/
theorem enqueueStoresOrDrops : Obligations.EnqueueStoresOrDrops := by
  intro b s hh
  refine ⟨fun hfull => ⟨?_, rfl⟩, fun hroom => ?_, rfl, fun t => exec_enq_keeps_ports⟩
  · exact exec_enq_of_ok (enqueue_full b ((full_iff_mod hh).mpr hfull))
  · have hf : s.full = false := Bool.eq_false_iff.mpr (mt (full_iff_mod hh).mp hroom)
    rw [exec_enq_of_ok (enqueue_room b hf hh), advance_eq_mod hh]; rfl

/-- Settles O7: R72's two cases are `dequeue_empty` and `dequeue_some`, told apart by the cursors (`empty_iff_head_eq_tail`). -/
theorem dequeueTakesOldest : Obligations.DequeueTakesOldest := by
  intro s ht
  refine ⟨fun hempty => ?_, fun b hne hb => ?_, rfl, rfl⟩
  · exact exec_deq_of_ok (dequeue_empty (empty_iff_head_eq_tail.mpr hempty))
  · have he : s.empty = false := Bool.eq_false_iff.mpr (mt empty_iff_head_eq_tail.mp hne)
    rw [exec_deq_of_ok (dequeue_some he ht hb), advance_eq_mod ht]; rfl

end Sys2Proof.Machine
end

section
/-! PROOF. What a byte given to the parser does in each state (41_frameparser.md R79 to R87), as FEED and as the byte's row. -/

namespace Sys2Proof.Machine

variable {s t u : State} {b : Byte} {k : ByteClass} {i : Instr}

/-! FEED and the rows about one byte -/

/-- FEED applies the class that the byte is of, and its result names it (R78). -/
theorem feedByte_eq_ok (h : feedByte b s = .ok (k, u)) : k = classify s.ctx b ∧ applyClass (classify s.ctx b) b s = .ok u := by
  unfold feedByte at h
  split at h
  · cases h; exact ⟨rfl, ‹_›⟩
  · cases h

theorem isClassRow_instrOfClass (k : ByteClass) (b : Byte) : isClassRow (instrOfClass k b) = true := by
  cases k
  case lenBad => simp only [instrOfClass]; split <;> rfl
  all_goals rfl

/-- The row that the decoder gives for a byte is about that byte. -/
theorem feedOperand_decodeByte (x : DecodeCtx) (b : Byte) : feedOperand (decodeByte x b) = b := by
  rcases decodeByte_cases x b with ⟨-, rfl, -, h⟩ | ⟨-, -, -, h⟩ | ⟨-, -, -, h⟩ | ⟨-, rfl, -, h⟩ | ⟨-, -, -, h⟩ | ⟨-, -, h⟩ |
    ⟨-, -, -, h⟩ | ⟨-, -, -, h⟩ <;> simp only [h, feedOperand]

/-- The row that the decoder gives for a byte does what FEED of the byte does. -/
theorem exec_decodeByte (s : State) (b : Byte) : exec (decodeByte s.ctx b) s = exec (.feed b) s := by
  rw [exec_classRow s (i := decodeByte s.ctx b) (isClassRow_instrOfClass _ b), feedOperand_decodeByte, if_pos rfl]

/-- Where FEED of a byte completes, so does the row of the byte's class, and with the same result. -/
theorem exec_instrOfClass_of_ok (h : feedByte b s = .ok (k, u)) : exec (instrOfClass k b) s = .next (u.record (.fed k)) := by
  rw [← exec_feed_of_ok h, ← exec_decodeByte, decodeByte, ← (feedByte_eq_ok h).1]

/-- What a FEED or byte-class row does, FEED of its byte does. -/
theorem exec_feedRow_next (hi : isFeedRow i = true) (h : exec i s = .next t) : exec (.feed (feedOperand i)) s = .next t := by
  by_cases hc : i = .feed (feedOperand i)
  · rw [← hc]; exact h
  · rw [exec_classRow s (by simp [isClassRow, hi, hc])] at h
    split at h
    · exact h
    · cases h

/-! What a byte leaves, by the state it finds -/

theorem setPstate_self {v : PState} (h : s.pstate = v) : s.setPstate v = s := by subst h; rfl

theorem feedByte_of_idle (hp : s.pstate = .idle) (h : feedByte b s = .ok (k, u)) :
    u = s.setPstate (if b = sof then .lengthExpected else .idle) := by
  by_cases hb : b = sof
  · subst hb; rw [feedByte_idleSof hp] at h; cases h; rfl
  · rw [feedByte_idleSkip hp hb] at h; cases h; rw [if_neg hb, setPstate_self hp]

theorem feedByte_of_lengthExpected (hp : s.pstate = .lengthExpected) (h : feedByte b s = .ok (k, u)) :
    u = if 0 < b.toNat ∧ b.toNat < s.cfg.maxPayload then
        (((s.setDeclaredLength b).setAcc 0).setWriteIndex 0).setPstate .payloadAccumulating
      else s.setPstate .idle := by
  by_cases hb : 0 < b.toNat ∧ b.toNat < s.cfg.maxPayload
  · rw [feedByte_lenOk hp hb] at h; cases h; rw [if_pos hb]
  · rw [feedByte_lenBad hp hb] at h; cases h; rw [if_neg hb]

theorem feedByte_of_payloadAccumulating (hp : s.pstate = .payloadAccumulating) (h : feedByte b s = .ok (k, u)) :
    u = afterPayload b s := by
  have hk : classify s.ctx b = .payload := by simp [classify, State.ctx, hp]
  obtain ⟨-, ha⟩ := feedByte_eq_ok h
  rw [hk] at ha
  exact (onPayload_eq_ok ha).2

theorem feedByte_of_checksumExpected (hp : s.pstate = .checksumExpected) (h : feedByte b s = .ok (k, u)) :
    (b = s.acc ∧ ∃ p, Memory.readRange s.payloadBuffer 0 s.declaredLength.toNat = some p ∧ u = afterDelivery p s) ∨
    (b ≠ s.acc ∧ u = s.setPstate .idle) := by
  by_cases hb : b = s.acc
  · have hk : classify s.ctx b = .csumOk := by simp [classify, State.ctx, hp, hb]
    obtain ⟨-, ha⟩ := feedByte_eq_ok h
    rw [hk] at ha
    obtain ⟨p, -, hr, hu⟩ := onCsumOk_eq_ok ha
    exact .inl ⟨hb, p, hr, hu⟩
  · rw [feedByte_csumBad hp hb] at h; cases h; exact .inr ⟨hb, rfl⟩

/-- No state but `Idle` leads into `LengthExpected` (R87). -/
theorem idle_of_feedByte_lengthExpected (h : feedByte b s = .ok (k, u)) (hu : u.pstate = .lengthExpected) : s.pstate = .idle := by
  cases hp : s.pstate with
  | idle => rfl
  | lengthExpected =>
    rw [feedByte_of_lengthExpected hp h] at hu
    split at hu <;> cases hu
  | payloadAccumulating =>
    rw [feedByte_of_payloadAccumulating hp h, afterPayload_pstate, hp] at hu
    split at hu <;> cases hu
  | checksumExpected =>
    rcases feedByte_of_checksumExpected hp h with ⟨-, p, -, rfl⟩ | ⟨-, rfl⟩ <;> cases hu

/-- The state after a payload byte, field by field (R83). -/
theorem afterPayload_eq (hp : s.pstate = .payloadAccumulating) : afterPayload b s = { s with
    pstate := if s.writeIndex + 1 = s.declaredLength.toNat then .checksumExpected else .payloadAccumulating
    payloadBuffer := Memory.write s.payloadBuffer s.writeIndex b
    acc := s.acc + b
    writeIndex := s.writeIndex + 1 } := by
  unfold afterPayload
  split
  · rfl
  · rw [← hp]; rfl

/-! The obligations -/

/-- Settles O18: a row does what FEED does (`exec_feedRow_next`), and FEED's effect is known in each of the four states. -/
theorem feedTransitionTable : Obligations.FeedTransitionTable := by
  intro i s t hi h
  obtain ⟨k, u, hf, rfl⟩ := exec_feed_next (exec_feedRow_next hi h)
  refine ⟨fun hp => ?_, fun hp => ?_, fun hp => ?_, fun hp => ?_, fun hu => idle_of_feedByte_lengthExpected hf hu, ?_⟩
  · rw [feedByte_of_idle hp hf]; rfl
  · rw [feedByte_of_lengthExpected hp hf]; split <;> rfl
  · rw [feedByte_of_payloadAccumulating hp hf, afterPayload_eq hp]; rfl
  · rcases feedByte_of_checksumExpected hp hf with ⟨hb, p, hr, rfl⟩ | ⟨hb, rfl⟩
    · rw [if_pos hb]; exact ⟨p, hr, rfl⟩
    · rw [if_neg hb]; rfl
  · obtain ⟨-, -, -, -, ho⟩ := feedByte_keeps hf
    rw [record_outcomes, ho, (feedByte_eq_ok hf).1]

/-- Settles O15: the byte leaves `afterPayload`, and below the declared length the invariant bounds the index. -/
theorem payloadByteStoredAddedCounted : Obligations.PayloadByteStoredAddedCounted := by
  refine ⟨fun b s hp hi => ?_, fun s inv hp => ?_⟩
  · have hf := feedByte_payload (b := b) hp hi
    refine ⟨_, exec_feed_of_ok hf, exec_instrOfClass_of_ok hf, ?_⟩
    rw [afterPayload_eq hp]
    exact ⟨rfl, BitVec.toNat_add s.acc b, rfl, rfl, rfl, rfl, ⟨rfl, rfl, rfl⟩, ⟨rfl, rfl⟩, ⟨rfl, rfl⟩, rfl, rfl⟩
  · obtain ⟨-, hlen, hidx, -⟩ := inv.parser.accumulating hp
    exact ⟨hidx, by omega⟩

/-- Settles O11: FEED and the row both end in `feedByte_idleSof`'s state. -/
theorem startMarkerOpensFrame : Obligations.StartMarkerOpensFrame := by
  intro s hp
  have hf := feedByte_idleSof hp
  exact ⟨exec_feed_of_ok hf, exec_instrOfClass_of_ok hf⟩

/-- Settles O12: FEED and the row both end in `feedByte_idleSkip`'s state, the one they found. -/
theorem otherBytesIgnoredInIdle : Obligations.OtherBytesIgnoredInIdle := by
  intro b s hp hb
  have hf := feedByte_idleSkip hp hb
  exact ⟨exec_feed_of_ok hf, exec_instrOfClass_of_ok hf, rfl⟩

/-- Settles O14: the two conditions of R82 are the negation of a valid length (`feedByte_lenBad`); at a ceiling of 256 every byte but
zero is a valid length (`feedByte_lenOk`). -/
theorem invalidLengthReturnsToIdle : Obligations.InvalidLengthReturnsToIdle := by
  refine ⟨fun b s hp hbad => ?_, fun s hp hmax => ?_, fun b s hp hmax hb => ?_⟩
  · have hnot : ¬ (0 < b.toNat ∧ b.toNat < s.cfg.maxPayload) := by
      rintro ⟨hpos, hlt⟩
      rcases hbad with rfl | hle
      · exact absurd hpos (by decide)
      · omega
    have hf := feedByte_lenBad hp hnot
    have row := exec_instrOfClass_of_ok hf
    refine ⟨exec_feed_of_ok hf, fun h0 => ?_, fun h0 => ?_, rfl⟩
    · rwa [instrOfClass, if_pos h0] at row
    · rwa [instrOfClass, if_neg h0] at row
  · have hnot : ¬ (0 < (0xAA : Byte).toNat ∧ (0xAA : Byte).toNat < s.cfg.maxPayload) :=
      fun ⟨_, hlt⟩ => absurd hlt (Nat.not_lt.mpr hmax)
    exact ⟨_, exec_feed_of_ok (feedByte_lenBad hp hnot), rfl, exec_feed_of_ok (feedByte_idleSkip rfl (by decide))⟩
  · have hlt : b.toNat < s.cfg.maxPayload := hmax ▸ b.isLt
    exact ⟨_, exec_feed_of_ok (feedByte_lenOk hp ⟨byte_pos hb, hlt⟩), rfl⟩

/-- Settles O16: FEED and the row both end in `feedByte_csumBad`'s state. -/
theorem wrongChecksumDiscardsFrame : Obligations.WrongChecksumDiscardsFrame := by
  intro b s hp hb
  have hf := feedByte_csumBad hp hb
  exact ⟨exec_feed_of_ok hf, exec_instrOfClass_of_ok hf, rfl⟩

end Sys2Proof.Machine
end

section
/-! PROOF. What SEND hands to the transmit output (42_frameemitter.md R95, R96). -/

namespace Sys2Proof.Machine

variable {s : State} {resp : List Byte}

/-! The length condition and the checksum in the spec's own arithmetic -/

/-- The lengths SEND skips (R96). -/
theorem lengthInRange_eq_false_iff {m n : Nat} : lengthInRange m n = false ↔ n = 0 ∨ m ≤ n := by
  rw [← Bool.not_eq_true, lengthInRange_iff]; omega

theorem cksum_eq_ofNat_mod (p : List Byte) : cksum p = BitVec.ofNat 8 (sumBytes p % 256) :=
  BitVec.eq_of_toNat_eq (by rw [cksum, BitVec.toNat_ofNat, BitVec.toNat_ofNat, Nat.mod_mod])

/-! SEND at its two ends -/

theorem exec_send_sent (h : lengthInRange s.cfg.maxPayload resp.length = true) :
    exec (.send resp) s = .next ((s.setTx (s.tx ++ frameGroups resp)).record .sent) := by
  rw [exec, execSend, sendBody_sent h, finish_ok]

theorem exec_send_skipped (h : lengthInRange s.cfg.maxPayload resp.length = false) :
    exec (.send resp) s = .next (s.record .skipped) := by
  rw [exec, execSend, sendBody_skipped h, finish_ok]

/-- Settles O30: R95's two cases are `exec_send_sent` and `exec_send_skipped`, told apart by the length as a natural number; the length
byte holds it because the ceiling is at most 256 (`length_byte`). -/
theorem sendFramesOrSkips : Obligations.SendFramesOrSkips := by
  intro resp s
  refine ⟨fun hpos hlt => ?_, fun hout => ⟨?_, rfl⟩, rfl, rfl, fun ⟨_, _, hmax⟩ hlt => length_byte hlt hmax⟩
  · rw [exec_send_sent (lengthInRange_iff.mpr ⟨hpos, hlt⟩), frameGroups, cksum_eq_ofNat_mod]; rfl
  · exact exec_send_skipped (lengthInRange_eq_false_iff.mpr hout)

end Sys2Proof.Machine
end

section
/-! PROOF. `N` and `MAX_PAYLOAD` are fixed before reset and nothing changes them (70_reset_and_hazards.md R145). No invariant is assumed:
the parameters stay in every state in which an operation completes. -/

namespace Sys2Proof.Machine

variable {s t u : State} {b : Byte} {o : OpOutcome} {r : Option Byte} {i : Instr}

/-! The shared operations -/

theorem enqueue_cfg (h : enqueue b s = .ok (o, u)) : u.cfg = s.cfg := by
  rcases enqueue_cases h with ⟨-, -, rfl⟩ | ⟨-, -, -, rfl⟩ <;> rfl

theorem dequeue_cfg (h : dequeue s = .ok (r, u)) : u.cfg = s.cfg := by
  rcases dequeue_cases h with ⟨-, -, rfl⟩ | ⟨_, -, -, -, -, rfl⟩ <;> rfl

theorem feedByte_cfg {k : ByteClass} (h : feedByte b s = .ok (k, u)) : u.cfg = s.cfg := by
  obtain ⟨-, -, -, ⟨hc, -⟩, -⟩ := feedByte_keeps h
  exact hc

theorem pollBody_cfg (h : pollBody s = .ok (o, u)) : u.cfg = s.cfg := by
  rcases pollBody_cases h with ⟨-, -, rfl⟩ | ⟨b, k, v, -, -, -, hf, -, rfl⟩
  · rfl
  · have hv : v.cfg = s.cfg := by rw [feedByte_cfg hf, setTail_cfg]
    split <;> exact hv

/-! Operations and traces -/

theorem exec_enq_cfg (h : exec (.enq b) s = .next t) : t.cfg = s.cfg := by
  obtain ⟨o, u, he, rfl⟩ := exec_enq_next h
  rw [record_cfg, enqueue_cfg he]

theorem exec_deq_cfg (h : exec .deq s = .next t) : t.cfg = s.cfg := by
  obtain ⟨r, u, hd, rfl⟩ := exec_deq_next h
  rw [record_cfg, dequeue_cfg hd]

theorem exec_poll_cfg (h : exec .poll s = .next t) : t.cfg = s.cfg := by
  obtain ⟨-, o, u, hp, rfl⟩ := exec_poll_next h
  rw [record_cfg, pollBody_cfg hp]

theorem exec_send_cfg {resp : List Byte} (h : exec (.send resp) s = .next t) : t.cfg = s.cfg := by
  rcases exec_send_next h with ⟨-, rfl⟩ | ⟨-, rfl⟩ <;> rfl

theorem exec_respond_cfg {resp : List Byte} (h : exec (.respond resp) s = .next t) : t.cfg = s.cfg := by
  rcases exec_respond_next h with ⟨-, ⟨-, rfl⟩ | ⟨-, rfl⟩⟩ <;> rfl

/-- RESET gives every element R34's value at the parameters it finds. -/
theorem exec_reset_cfg (h : exec .reset s = .next t) : t.cfg = s.cfg := by
  cases h; rfl

/-- A row does what FEED of its byte does, so FEED's effect settles both. -/
theorem exec_feedRow_cfg (hi : isFeedRow i = true) (h : exec i s = .next t) : t.cfg = s.cfg := by
  obtain ⟨k, u, hf, rfl⟩ := exec_feed_next (exec_feedRow_next hi h)
  rw [record_cfg, feedByte_cfg hf]

/-- A trace of operations that keep the parameters keeps them. -/
theorem runOps_cfg_of {ops : List Instr} (hops : ∀ i, i ∈ ops → ∀ s t, exec i s = .next t → t.cfg = s.cfg)
    (h : runOps ops s = .next t) : t.cfg = s.cfg := by
  induction ops generalizing s with
  | nil => cases h; rfl
  | cons i ops ih =>
    rw [runOps] at h
    cases hx : exec i s with
    | next u =>
      rw [hx] at h
      calc t.cfg = u.cfg := ih (fun j hj => hops j (List.mem_cons_of_mem i hj)) h
        _ = s.cfg := hops i List.mem_cons_self s u hx
    | fault f => rw [hx] at h; cases h
    | refused r => rw [hx] at h; cases h

/-- A frame's arrival is a trace of ENQs. -/
theorem exec_frame_cfg {p : List Byte} (h : exec (.frame p) s = .next t) : t.cfg = s.cfg := by
  refine runOps_cfg_of (fun i hi s t hx => ?_) (exec_frame_next h).2
  obtain ⟨b, -, rfl⟩ := List.mem_map.mp hi
  exact exec_enq_cfg hx

theorem exec_cfg (h : exec i s = .next t) : t.cfg = s.cfg := by
  cases i with
  | enq b => exact exec_enq_cfg h
  | deq => exact exec_deq_cfg h
  | poll => exact exec_poll_cfg h
  | respond resp => exact exec_respond_cfg h
  | send resp => exact exec_send_cfg h
  | reset => exact exec_reset_cfg h
  | frame p => exact exec_frame_cfg h
  | feed _ | feedIdleSof | feedIdleSkip _ | feedLenBadZero | feedLenBadOver _ | feedLenOk _ | feedPayload _ | feedCsumOk _
  | feedCsumBad _ => exact exec_feedRow_cfg rfl h

/-- A step is an operation, after its event is taken off the schedule, or changes nothing. -/
theorem step_cfg (h : step s = .next t) : t.cfg = s.cfg := by
  obtain ⟨-, ⟨-, -, hx⟩ | ⟨-, -, rfl⟩ | ⟨e, rest, i, -, -, hx⟩⟩ := step_next_cases h
  · exact exec_cfg hx
  · rfl
  · rw [exec_cfg hx, setPending_cfg]

/-- Settles O3: every operation keeps the parameters (`exec_cfg`), and a step is at most one operation (`step_cfg`). -/
theorem parametersNeverChange : Obligations.ParametersNeverChange :=
  ⟨fun _ _ _ => exec_cfg, fun _ _ => step_cfg⟩

end Sys2Proof.Machine
end

section
/-! PROOF. The decoder and the encoder: the wire frame, the byte classes and their rows, and that each is the other's inverse
(30_encoding.md sections 1 to 3). -/

namespace Sys2Proof.Machine

variable {c : Config} {x : DecodeCtx} {b : Byte} {i : Instr}

/-! The checksum (R55) -/

theorem sumBytes_eq_sum (p : List Byte) : sumBytes p = (p.map BitVec.toNat).sum := by
  induction p with
  | nil => rfl
  | cons b p ih => rw [sumBytes_cons, ih, List.map_cons, List.sum_cons]

theorem sumBytes_perm {p q : List Byte} (h : q.Perm p) : sumBytes q = sumBytes p := by
  rw [sumBytes_eq_sum, sumBytes_eq_sum, (h.map _).sum_eq]

/-- Adding the bytes in turn to any start adds the checksum to it. -/
theorem foldl_add_eq_cksum (p : List Byte) (a : Byte) : p.foldl (fun a b => a + b) a = a + cksum p := by
  induction p generalizing a with
  | nil => simp
  | cons b p ih => rw [List.foldl_cons, ih, cksum_cons, BitVec.add_assoc]

/-- Settles O32: the sum does not see the order (`sumBytes_perm`), and the running sum from 0 is the checksum (`foldl_add_eq_cksum`). -/
theorem checksumIsRunningSum : Obligations.ChecksumIsRunningSum := by
  refine fun p => ⟨BitVec.toNat_ofNat _ _, ?_, fun q hq => ?_⟩
  · rw [foldl_add_eq_cksum]; exact (BitVec.zero_add _).symm
  · rw [cksum, cksum, sumBytes_perm hq]

/-! The wire frame (R53, R56) -/

theorem decodeFrame_frameOf {m : Nat} {p : List Byte} (hm : m ≤ 256) (hpos : 0 < p.length) (hlt : p.length < m) :
    decodeFrame m (frameOf p) = .instr (.frame p) := by
  simp only [decodeFrame, frameOf, if_true, length_byte hlt hm, lengthInRange_iff.mpr ⟨hpos, hlt⟩, decodeBody_frame]

/-- The whole-frame decoder reads nothing but well-formed frames. -/
theorem decodeFrame_eq_instr {m : Nat} {w : List Byte} (h : decodeFrame m w = .instr i) :
    ∃ p, i = .frame p ∧ 0 < p.length ∧ p.length < m ∧ w = frameOf p := by
  unfold decodeFrame at h
  split at h
  · cases h
  · rename_i first rest
    split at h
    · rename_i hsof
      split at h
      · cases h
      · rename_i n body
        split at h
        · rename_i hn
          obtain ⟨hpos, hlt⟩ := lengthInRange_iff.mp hn
          obtain ⟨p, rfl, hp, rfl⟩ := decodeBody_eq_instr h
          have hbyte : BitVec.ofNat 8 p.length = n := by rw [hp, BitVec.ofNat_toNat, BitVec.setWidth_eq]
          exact ⟨p, rfl, by omega, by omega, by rw [frameOf, hbyte, hsof]⟩
        · cases h
    · cases h

/-- Settles O33: `decodeFrame_eq_instr` one way and `decodeFrame_frameOf` the other. -/
theorem frameDecodesExactlyWellFormed : Obligations.FrameDecodesExactlyWellFormed := by
  intro m w i hm
  constructor
  · intro h
    obtain ⟨p, hi, hpos, hlt, rfl⟩ := decodeFrame_eq_instr h
    exact ⟨p, hi, hpos, hlt, rfl, frameOf_length p⟩
  · rintro ⟨p, rfl, hpos, hlt, rfl, -⟩
    exact decodeFrame_frameOf hm hpos hlt

/-! The rows of a byte (R58) -/

/-- The decoder's row for a byte meets its own conditions. -/
theorem decodeByte_selected (hm : x.maxPayload = c.maxPayload) (b : Byte) :
    (decodeByte x b).wf c = true ∧ (decodeByte x b).selected x = true := by
  rcases decodeByte_cases x b with ⟨hp, -, -, h⟩ | ⟨hp, hb, -, h⟩ | ⟨hp, ⟨h0, hb⟩, -, h⟩ | ⟨hp, -, -, h⟩ |
    ⟨hp, ⟨h0, hb⟩, -, h⟩ | ⟨hp, -, h⟩ | ⟨hp, hb, -, h⟩ | ⟨hp, hb, -, h⟩ <;> rw [h]
  · exact ⟨rfl, decide_eq_true hp⟩
  · exact ⟨bne_iff_ne.mpr hb, decide_eq_true hp⟩
  · exact ⟨by simp [Instr.wf, h0, ← hm, hb], decide_eq_true hp⟩
  · exact ⟨rfl, decide_eq_true hp⟩
  · exact ⟨by simpa [Instr.wf, ← hm] using ⟨h0, hb⟩, decide_eq_true hp⟩
  · exact ⟨rfl, decide_eq_true hp⟩
  · exact ⟨rfl, by simp [Instr.selected, hp, hb]⟩
  · exact ⟨rfl, by simp [Instr.selected, hp, hb]⟩

theorem isClassRow_decodeByte (x : DecodeCtx) (b : Byte) : isClassRow (decodeByte x b) = true :=
  isClassRow_instrOfClass _ b

/-- A byte-class row that meets its conditions is the one the decoder gives for its byte. -/
theorem decodeByte_of_selected (hm : x.maxPayload = c.maxPayload) (hi : isClassRow i = true) (hwf : i.wf c = true)
    (hsel : i.selected x = true) : decodeByte x (feedOperand i) = i := by
  cases i with
  | feed b => simp [isClassRow, feedOperand] at hi
  | feedLenBadOver b =>
    obtain ⟨h0, hle⟩ : b ≠ 0 ∧ c.maxPayload ≤ b.toNat := by simpa [Instr.wf] using hwf
    have hbad : lengthInRange c.maxPayload b.toNat = false := lengthInRange_eq_false_iff.mpr (.inr hle)
    have hp : x.pstate = .lengthExpected := by simpa [Instr.selected] using hsel
    simp only [feedOperand, decodeByte, classify, hp, hm, hbad, instrOfClass, Bool.false_eq_true, if_false, h0]
  | feedIdleSof | feedIdleSkip b | feedLenBadZero | feedLenOk b | feedPayload b | feedCsumOk b | feedCsumBad b =>
    simp_all [Instr.wf, Instr.selected, feedOperand, decodeByte, classify, instrOfClass, lengthInRange]
  | _ => cases hi

/-- Settles O20: the decoder's row qualifies (`decodeByte_selected`), and every row that does is it (`decodeByte_of_selected`). -/
theorem exactlyOneClassApplies : Obligations.ExactlyOneClassApplies := by
  intro s b
  have hrow := isClassRow_decodeByte s.ctx b
  have hop := feedOperand_decodeByte s.ctx b
  obtain ⟨hwf, hsel⟩ := decodeByte_selected (c := s.cfg) (x := s.ctx) rfl b
  refine ⟨⟨decodeByte s.ctx b, ⟨hrow, hop, hwf, hsel⟩, ?_⟩, hrow, hop, hwf, hsel⟩
  rintro i ⟨hi, rfl, hw, hs⟩
  exact (decodeByte_of_selected rfl hi hw hs).symm

/-- Settles O21: it is `exec_classRow`. -/
theorem classRowIsFeedWhereSelected : Obligations.ClassRowIsFeedWhereSelected := fun _ s hi => exec_classRow s hi

/-! Decoding and encoding -/

/-- A byte-class row's event is its byte at the byte-class port. -/
theorem encode_classRow (hi : isClassRow i = true) : encode i = { port := .byteClass, data := [feedOperand i] } := by
  cases i with
  | feed b => simp [isClassRow, feedOperand] at hi
  | feedIdleSof | feedIdleSkip b | feedLenBadZero | feedLenBadOver b | feedLenOk b | feedPayload b | feedCsumOk b | feedCsumBad b => rfl
  | _ => cases hi

theorem decode_encode_classRow (hm : x.maxPayload = c.maxPayload) (hi : isClassRow i = true) (hwf : i.wf c = true)
    (hsel : i.selected x = true) : decode x (encode i) = .instr i := by
  rw [encode_classRow hi]
  exact congrArg Decoded.instr (decodeByte_of_selected hm hi hwf hsel)

/-- Settles O37: an operation's own port gives it back; a row's byte is read as the row its conditions name
(`decode_encode_classRow`); a whole frame as its payload (`decodeFrame_frameOf`). -/
theorem decodeOfEncode : Obligations.DecodeOfEncode := by
  intro c x i hc hm hwf hsel
  cases i with
  | enq b | deq | feed b | poll | respond resp | send resp | reset => rfl
  | frame p =>
    obtain ⟨hpos, hlt⟩ : 0 < p.length ∧ p.length < c.maxPayload := by simpa [Instr.wf] using hwf
    exact decodeFrame_frameOf (hm ▸ hc.2.2) hpos (hm ▸ hlt)
  | feedIdleSof | feedIdleSkip b | feedLenBadZero | feedLenBadOver b | feedLenOk b | feedPayload b | feedCsumOk b | feedCsumBad b =>
    exact decode_encode_classRow hm (by simp [isClassRow, isFeedRow, feedOperand]) hwf hsel

/-- Settles O38: each port's event has one operand form; a byte's row meets its conditions (`decodeByte_selected`), and a whole frame
is one of a payload of a valid length (`decodeFrame_eq_instr`). -/
theorem encodeOfDecode : Obligations.EncodeOfDecode := by
  rintro c x ⟨port, data⟩ i - hm h
  cases port with
  | rx | feed =>
    match data, h with
    | [b], h => cases h; exact ⟨rfl, rfl, rfl⟩
  | dequeue | poll | rst =>
    match data, h with
    | [], h => cases h; exact ⟨rfl, rfl, rfl⟩
  | resp | send => cases h; exact ⟨rfl, rfl, rfl⟩
  | byteClass =>
    match data, h with
    | [b], h =>
      cases h
      obtain ⟨hwf, hsel⟩ := decodeByte_selected hm b
      exact ⟨hwf, hsel, by rw [encode_classRow (isClassRow_decodeByte x b), feedOperand_decodeByte]⟩
  | wire =>
    obtain ⟨p, rfl, hpos, hlt, hw⟩ := decodeFrame_eq_instr h
    exact ⟨by simp [Instr.wf, hpos, ← hm, hlt], rfl, by rw [encode, ← hw]⟩

/-- Settles O36: the decoder evaluates to the operation on each sample. -/
theorem sampleEventsDecode : Obligations.SampleEventsDecode := by
  refine ⟨rfl, rfl, rfl, rfl, rfl, rfl, rfl, rfl, rfl⟩

/-! The match and mask columns (R67) -/

theorem and_full_mask (b : Byte) : b &&& 0xFF#8 = b := BitVec.and_allOnes

/-- Under the mask `0x80` a length of 128 or more reads as `0x80`. -/
theorem and_bit7_of_le : ∀ b : Byte, 128 ≤ b.toNat → b &&& 0x80#8 = 0x80#8 := by decide

/-- Under the mask `0x80` a length below 128 reads as `0x00`. -/
theorem and_bit7_of_lt : ∀ b : Byte, b.toNat < 128 → b &&& 0x80#8 = 0x00#8 := by decide

/-- Settles O39, state by state: a full mask compares the byte, an empty mask takes every byte, and bit 7 tells the lengths below 128
from the others. -/
theorem matchMaskRowsAgree : Obligations.MatchMaskRowsAgree := by
  intro ps acc b
  cases ps with
  | idle =>
    by_cases hb : b = sof <;>
      simp_all [classifyByRows, classRows, ClassRow.applies, classify, and_full_mask, sof]
  | lengthExpected =>
    by_cases h0 : b = 0
    · subst h0; rfl
    · rcases Nat.lt_or_ge b.toNat 128 with hlt | hge
      · simp_all [classifyByRows, classRows, ClassRow.applies, classify, and_full_mask, and_bit7_of_lt,
          lengthInRange, byte_pos]
      · simp_all [classifyByRows, classRows, ClassRow.applies, classify, and_full_mask, and_bit7_of_le,
          lengthInRange, Nat.not_lt.mpr]
  | payloadAccumulating => simp [classifyByRows, classRows, ClassRow.applies, classify]
  | checksumExpected =>
    by_cases hb : b = acc <;>
      simp_all [classifyByRows, classRows, ClassRow.applies, classify, and_full_mask]

end Sys2Proof.Machine
end

section
/-! PROOF. The invariants under operations, steps and reset (10_state.md R25, R29, R34), the `busy` interlock under the steps that an
agent takes, and that every enabled operation completes (30_encoding.md R68). -/

namespace Sys2Proof.Machine

variable {s t u : State} {b : Byte} {o : OpOutcome} {i : Instr}

/-! One equation per operation that has a condition -/

theorem exec_poll_of_ok (hb : s.busy = false) (h : pollBody s = .ok (o, u)) : exec .poll s = .next (u.record o) := by
  simp [exec, execPoll, hb, h]

theorem exec_respond_refused (hb : s.busy = false) (resp : List Byte) : exec (.respond resp) s = .refused .respondNotEnabled := by
  simp [exec, execRespond, hb]

theorem exec_respond_of_busy (hb : s.busy = true) (resp : List Byte) :
    exec (.respond resp) s = .next (((sendBody resp s).2.setBusy false).record (sendBody resp s).1) := by
  simp [exec, execRespond, hb]

theorem exec_frame_of_lengthInRange {p : List Byte} (h : lengthInRange s.cfg.maxPayload p.length = true) :
    exec (.frame p) s = runOps (rx (frameOf p)) s := by
  simp only [exec, execFrame, h, if_true, enqueueAll_eq_runOps]

/-- A trace that completes completes its first operation, and then the others. -/
theorem runOps_cons_eq_next {is : List Instr} (h : runOps (i :: is) s = .next t) :
    ∃ u, exec i s = .next u ∧ runOps is u = .next t := by
  rw [runOps] at h
  cases hx : exec i s with
  | next u => rw [hx] at h; exact ⟨u, rfl, h⟩
  | fault f => rw [hx] at h; cases h
  | refused r => rw [hx] at h; cases h

/-! Reset -/

theorem busyInv_resetWith (c : Config) : BusyInv (State.resetWith c) := fun h => by cases h

/-- Settles O2: at reset the queue is empty, the parser in `Idle`, and both outputs are empty (`blockInv_resetWith`). -/
theorem resetMeetsInvariants : Obligations.ResetMeetsInvariants :=
  ⟨fun c hc => ⟨blockInv_resetWith hc, busyInv_resetWith c⟩, blockInv_resetWith (by decide), busyInv_resetWith _⟩

/-- Settles O1: RESET writes R34's values; the empty queue and `busy = 0` then decide what DEQ and RESPOND do. -/
theorem resetFromAnyState : Obligations.ResetFromAnyState := by
  intro s
  refine ⟨(State.resetWith s.cfg).setPending s.pending, rfl, rfl, rfl, rfl, rfl, rfl, rfl, rfl, fun _ => rfl, fun _ => rfl, rfl, rfl,
    ⟨rfl, rfl⟩, ?_, ?_⟩
  · exact exec_deq_of_ok (dequeue_empty rfl)
  · exact exec_respond_refused rfl

/-! Steps -/

theorem BlockInv.setPending (h : BlockInv s) (l : List PortEvent) : BlockInv (s.setPending l) :=
  h.congr rfl ⟨rfl, rfl, rfl⟩ ⟨rfl, rfl, rfl, rfl⟩ rfl ⟨rfl, rfl⟩

/-- A step is an operation, a wait, or a refusal, so it is as safe as the operations are (`exec_safe`). -/
theorem step_safe (h : BlockInv s) : SafeAt s.cfg (step s) := by
  rw [step, if_pos h.params]
  split
  · rw [idleTurn]
    split
    · exact ⟨h, rfl⟩
    · exact exec_safe h .poll
  · split
    · exact exec_safe (h.setPending _) _
    · trivial

/-- Settles O42: an operation or step that completes is a safe one (`exec_safe`, `step_safe`). -/
theorem stepKeepsInvariants : Obligations.StepKeepsInvariants := by
  refine ⟨fun i s t inv h => ?_, fun s t inv h => ?_⟩
  · have safe := exec_safe inv i
    rw [h] at safe
    exact safe.1
  · have safe := step_safe inv
    rw [h] at safe
    exact safe.1

/-- Settles O44: a safe step is no fault (`step_safe`). -/
theorem stepNeverFaults : Obligations.StepNeverFaults := by
  intro s f inv h
  have safe := step_safe inv
  rw [h] at safe
  exact safe

/-! What the producer's operations leave alone (R135) -/

/-- Everything the producer does not write: all but `slot`, `head` and the history. -/
structure ProducerKeeps (s t : State) : Prop where
  tail : t.tail = s.tail
  registers : KeepsParserRegisters s t
  buffer : t.payloadBuffer = s.payloadBuffer
  busy : t.busy = s.busy
  outputs : KeepsOutputs s t
  setting : KeepsSetting s t

theorem ProducerKeeps.refl (s : State) : ProducerKeeps s s := ⟨rfl, ⟨rfl, rfl, rfl, rfl⟩, rfl, rfl, ⟨rfl, rfl⟩, ⟨rfl, rfl⟩⟩

theorem ProducerKeeps.trans (h : ProducerKeeps s t) (k : ProducerKeeps t u) : ProducerKeeps s u := by
  obtain ⟨h1, ⟨h2, h3, h4, h5⟩, h6, h7, ⟨h8, h9⟩, ⟨h10, h11⟩⟩ := h
  obtain ⟨k1, ⟨k2, k3, k4, k5⟩, k6, k7, ⟨k8, k9⟩, ⟨k10, k11⟩⟩ := k
  exact ⟨k1.trans h1, ⟨k2.trans h2, k3.trans h3, k4.trans h4, k5.trans h5⟩, k6.trans h6, k7.trans h7,
    ⟨k8.trans h8, k9.trans h9⟩, ⟨k10.trans h10, k11.trans h11⟩⟩

theorem producerKeeps_enq (h : exec (.enq b) s = .next t) : ProducerKeeps s t := by
  obtain ⟨o, u, he, rfl⟩ := exec_enq_next h
  rcases enqueue_cases he with ⟨-, -, rfl⟩ | ⟨-, -, -, rfl⟩ <;>
    exact ⟨rfl, ⟨rfl, rfl, rfl, rfl⟩, rfl, rfl, ⟨rfl, rfl⟩, ⟨rfl, rfl⟩⟩

theorem producerKeeps_rx {bs : List Byte} (h : runOps (rx bs) s = .next t) : ProducerKeeps s t := by
  induction bs generalizing s with
  | nil => cases h; exact .refl _
  | cons b bs ih =>
    obtain ⟨u, hu, hrest⟩ := runOps_cons_eq_next h
    exact (producerKeeps_enq hu).trans (ih hrest)

theorem producerKeeps_frame {p : List Byte} (h : exec (.frame p) s = .next t) : ProducerKeeps s t :=
  producerKeeps_rx (exec_frame_next h).2

/-! The `busy` interlock -/

theorem busyInv_of_not_busy (h : s.busy = false) : BusyInv s := fun hb => by rw [h] at hb; cases hb

theorem BusyInv.of_producerKeeps (h : BusyInv s) (k : ProducerKeeps s t) : BusyInv t :=
  h.congr k.setting.1 k.registers.1 k.registers.2.1 k.buffer k.outputs.1 k.busy

/-- Where a payload of the declared length is delivered, it stands in the buffer with its terminator behind it (R29). -/
theorem busyInv_afterDelivery {p : List Byte} (hpos : 0 < s.declaredLength.toNat) (hlt : s.declaredLength.toNat < s.cfg.maxPayload)
    (hp : Memory.readRange s.payloadBuffer 0 s.declaredLength.toNat = some p) : BusyInv ((afterDelivery p s).setBusy true) := by
  refine fun _ => ⟨rfl, hpos, hlt, Memory.read_write_same _ _ _, p, List.getLast?_concat, ?_⟩
  exact (Memory.readRange_write_outside _ _ (.inr (Nat.le_of_eq (Nat.zero_add _)))).trans hp

/-- POLL finds `busy = 0` and sets it only where it delivers. -/
theorem busyInv_poll (inv : BlockInv s) (h : exec .poll s = .next t) : BusyInv t := by
  obtain ⟨hb, o, u, hp, rfl⟩ := exec_poll_next h
  rcases pollBody_cases hp with ⟨-, -, rfl⟩ | ⟨b, k, v, -, -, -, hf, -, rfl⟩
  · exact busyInv_of_not_busy hb
  · obtain ⟨-, hv, -⟩ := feedByte_keeps hf
    rcases feedByte_deliveries hf with ⟨hk, -⟩ | ⟨rfl, hs, hlt, p, hr, rfl⟩
    · rw [if_neg hk]; exact busyInv_of_not_busy (hv.trans hb)
    · obtain ⟨hpos, -⟩ := inv.parser.checksum hs
      exact busyInv_afterDelivery hpos hlt hr

/-- The operations that an agent performs on its own (R64). -/
theorem agent_instr_cases (h : (encode i).port.ofAgent = true) :
    (∃ b, i = .enq b) ∨ i = .poll ∨ (∃ resp, i = .respond resp) ∨ i = .reset ∨ ∃ p, i = .frame p := by
  cases i <;> simp_all [encode, Port.ofAgent]

theorem busyInv_of_agent (inv : BlockInv s) (hb : BusyInv s) (ha : (encode i).port.ofAgent = true) (h : exec i s = .next t) :
    BusyInv t := by
  rcases agent_instr_cases ha with ⟨b, rfl⟩ | rfl | ⟨resp, rfl⟩ | rfl | ⟨p, rfl⟩
  · exact hb.of_producerKeeps (producerKeeps_enq h)
  · exact busyInv_poll inv h
  · rcases exec_respond_next h with ⟨-, ⟨-, rfl⟩ | ⟨-, rfl⟩⟩ <;> exact busyInv_of_not_busy rfl
  · cases h; exact busyInv_of_not_busy rfl
  · exact hb.of_producerKeeps (producerKeeps_frame h)

/-- Settles O43: the event of an agent's step decodes to an operation that an agent performs (`encodeOfDecode`), and each of those
keeps the interlock (`busyInv_of_agent`). -/
theorem agentStepKeepsInterlock : Obligations.AgentStepKeepsInterlock := by
  intro s t inv hb ha h
  obtain ⟨hc, ⟨-, -, hx⟩ | ⟨-, -, rfl⟩ | ⟨e, rest, i, hp, hd, hx⟩⟩ := step_next_cases h
  · exact busyInv_of_agent inv hb rfl hx
  · exact hb
  · obtain ⟨-, -, rfl⟩ := encodeOfDecode s.cfg s.ctx e i hc rfl hd
    refine busyInv_of_agent (inv.setPending rest) (hb.congr rfl rfl rfl rfl rfl rfl) ?_ hx
    rwa [State.drivenByAgent, hp] at ha

/-! Every operation completes where it is enabled (R68) -/

/-- Under the invariant any bytes can be received. -/
theorem BlockInv.rx_completes (h : BlockInv s) (bs : List Byte) : ∃ t, runOps (rx bs) s = .next t ∧ BlockInv t := by
  induction bs generalizing s with
  | nil => exact ⟨s, rfl, h⟩
  | cons b bs ih =>
    obtain ⟨o, u, he⟩ := h.enqueue_completes b
    obtain ⟨t, ht, inv⟩ := ih ((h.of_enqueue he).record o)
    exact ⟨t, (runOps_cons_next (exec_enq_of_ok he)).trans ht, inv⟩

/-- Settles O45, operation by operation, from the shared operations' completion under the invariant. -/
theorem enabledOperationsComplete : Obligations.EnabledOperationsComplete := by
  intro s inv
  refine ⟨fun b => ?_, ?_, fun b => ?_, fun hb => ?_, fun hb resp => ⟨_, exec_respond_of_busy hb resp⟩, fun resp => ⟨_, rfl⟩,
    ⟨_, rfl⟩, fun p hpos hlt => ?_⟩
  · obtain ⟨o, u, he⟩ := inv.enqueue_completes b
    exact ⟨_, exec_enq_of_ok he⟩
  · obtain ⟨r, u, hd⟩ := inv.dequeue_completes
    exact ⟨_, exec_deq_of_ok hd⟩
  · obtain ⟨k, u, hf⟩ := inv.feedByte_completes b
    exact ⟨_, exec_feed_of_ok hf⟩
  · obtain ⟨o, u, hp, -⟩ := inv.pollBody_completes
    exact ⟨_, exec_poll_of_ok hb hp⟩
  · obtain ⟨t, ht, -⟩ := inv.rx_completes (frameOf p)
    exact ⟨t, (exec_frame_of_lengthInRange (lengthInRange_iff.mpr ⟨hpos, hlt⟩)).trans ht⟩

end Sys2Proof.Machine
end

section
/-! PROOF. The queue as a bounded first-in first-out sequence: one ENQ, one DEQ, any trace of them, and the arrival of a whole frame
(10_state.md R17, R18, 40_bytequeue.md R70 to R75, 30_encoding.md R66). -/

namespace Sys2Proof.Machine

variable {s t : State} {b : Byte} {bs cs : List Byte}

/-! The count in the spec's own arithmetic -/

theorem count_eq_mod (hh : s.head < s.cfg.n) (ht : s.tail < s.cfg.n) : s.count = (s.head + s.cfg.n - s.tail) % s.cfg.n := by
  unfold State.count
  split
  · rw [show s.head + s.cfg.n - s.tail = s.head - s.tail + s.cfg.n by omega, Nat.add_mod_right, Nat.mod_eq_of_lt (by omega)]
  · rw [Nat.mod_eq_of_lt (by omega)]

/-- Settles O4: an empty queue holds 0 bytes and a full one `N - 1` (`empty_iff_count`, `full_iff_count`), which differ for `N >= 2`. -/
theorem emptyFullAndCount : Obligations.EmptyFullAndCount := by
  intro s hn hh ht
  refine ⟨empty_iff_head_eq_tail, full_iff_mod hh, count_eq_mod hh ht, Nat.le_sub_one_of_lt (count_lt hh ht), ?_⟩
  rintro ⟨he, hf⟩
  have h0 := (empty_iff_count ht).mp he
  have h1 := (full_iff_count hh ht hn).mp hf
  omega

/-! ENQ and DEQ on the contents -/

theorem full_iff_length (hn : 2 ≤ s.cfg.n) (q : QueueInv s) : s.full = true ↔ s.contents.length = s.cfg.n - 1 := by
  rw [contents_length q, full_iff_count q.head_lt q.tail_lt hn]

theorem contents_length_le (q : QueueInv s) : s.contents.length ≤ s.cfg.n - 1 := by
  rw [contents_length q]; exact Nat.le_sub_one_of_lt (count_lt q.head_lt q.tail_lt)

theorem empty_of_contents_nil (q : QueueInv s) (hc : s.contents = []) : s.empty = true := by
  rw [empty_iff_count q.tail_lt, ← contents_length q, hc, List.length_nil]

theorem QueueInv.record (q : QueueInv s) (o : OpOutcome) : QueueInv (s.record o) := q.congr rfl ⟨rfl, rfl, rfl⟩

theorem exec_enq_room (hn : 2 ≤ s.cfg.n) (q : QueueInv s) (b : Byte) (hroom : s.contents.length < s.cfg.n - 1) :
    ∃ t, exec (.enq b) s = .next t ∧ QueueInv t ∧ t.cfg = s.cfg ∧ t.contents = s.contents ++ [b] ∧
      t.outcomes = s.outcomes ++ [.stored b] := by
  have hf : s.full = false := Bool.eq_false_iff.mpr fun h => by have := (full_iff_length hn q).mp h; omega
  exact ⟨_, exec_enq_of_ok (enqueue_room b hf q.head_lt), (q.store hn b hf).record _, rfl, contents_store q hn b hf, rfl⟩

theorem exec_enq_full (hn : 2 ≤ s.cfg.n) (q : QueueInv s) (b : Byte) (hfull : s.contents.length = s.cfg.n - 1) :
    exec (.enq b) s = .next (s.record (.dropped b)) :=
  exec_enq_of_ok (enqueue_full b ((full_iff_length hn q).mpr hfull))

theorem exec_deq_nil (q : QueueInv s) (hc : s.contents = []) : exec .deq s = .next (s.record (.dequeued none)) :=
  exec_deq_of_ok (dequeue_empty (empty_of_contents_nil q hc))

/-- A held byte stands at `tail`, and taking it leaves the others. -/
theorem dequeue_contents_cons (q : QueueInv s) (hc : s.contents = b :: cs) :
    s.empty = false ∧ Memory.read s.slot s.tail = some b ∧ QueueInv (s.setTail (advance s.cfg.n s.tail)) ∧
      (s.setTail (advance s.cfg.n s.tail)).contents = cs := by
  have he : s.empty = false := Bool.eq_false_iff.mpr fun h => by
    rw [contents_nil ((empty_iff_count q.tail_lt).mp h)] at hc; cases hc
  obtain ⟨c, hread⟩ := q.first_written he
  have hcons := contents_cons q hread he
  rw [hc] at hcons
  obtain ⟨rfl, hcs⟩ := List.cons.inj hcons
  exact ⟨he, hread, q.take he, hcs.symm⟩

theorem exec_deq_cons (q : QueueInv s) (hc : s.contents = b :: cs) :
    ∃ t, exec .deq s = .next t ∧ QueueInv t ∧ t.cfg = s.cfg ∧ t.contents = cs ∧ t.outcomes = s.outcomes ++ [.dequeued (some b)] := by
  obtain ⟨he, hread, hq, hcs⟩ := dequeue_contents_cons q hc
  exact ⟨_, exec_deq_of_ok (dequeue_some he q.tail_lt hread), hq.record _, rfl, hcs, rfl⟩

/-- Settles O8: ENQ stores while there is room (`exec_enq_room`) and drops otherwise (`exec_enq_full`); DEQ takes the first byte
(`exec_deq_cons`) or finds none (`exec_deq_nil`). -/
theorem queueIsBoundedSequence : Obligations.QueueIsBoundedSequence := by
  intro s hc q
  refine ⟨contents_length q, fun b t h => ?_, fun t h => ?_⟩
  · by_cases hroom : s.contents.length < s.cfg.n - 1
    · obtain ⟨u, hu, hq, -, hcont, -⟩ := exec_enq_room hc.1 q b hroom
      cases hu.symm.trans h
      exact ⟨hq, by rw [if_pos hroom, hcont]⟩
    · have hfull : s.contents.length = s.cfg.n - 1 := by have := contents_length_le q; omega
      cases (exec_enq_full hc.1 q b hfull).symm.trans h
      exact ⟨q.record _, by rw [if_neg hroom, record_contents]⟩
  · cases hcs : s.contents with
    | nil =>
      cases (exec_deq_nil q hcs).symm.trans h
      exact ⟨q.record _, by rw [record_contents, hcs, List.tail_nil], rfl⟩
    | cons b cs =>
      obtain ⟨u, hu, hq, -, hcont, hout⟩ := exec_deq_cons q hcs
      cases hu.symm.trans h
      exact ⟨hq, hcont, hout⟩

/-- Settles O6: a dropped byte writes nothing, and a stored one `slot[head]` and `head` alone (`enqueue_cases`, `producerKeeps_enq`). -/
theorem enqueueFrame : Obligations.EnqueueFrame := by
  intro b s t h
  obtain ⟨htail, hregs, hbuf, hbusy, houts, hset⟩ := producerKeeps_enq h
  obtain ⟨o, u, he, rfl⟩ := exec_enq_next h
  rcases enqueue_cases he with ⟨hf, -, rfl⟩ | ⟨hf, -, -, rfl⟩
  · exact ⟨fun _ _ => rfl, fun _ => ⟨rfl, rfl⟩, fun h => (Bool.false_ne_true (h.symm.trans hf)).elim,
      htail, hbuf, hbusy, hregs, houts, hset⟩
  · exact ⟨fun a ha => Memory.read_write_other _ _ ha, fun h => (Bool.false_ne_true (hf.symm.trans h)).elim,
      fun _ => Memory.read_write_same _ _ _, htail, hbuf, hbusy, hregs, houts, hset⟩

/-! First in, first out (R74) -/

theorem storedBytes_append (a c : List OpOutcome) : storedBytes (a ++ c) = storedBytes a ++ storedBytes c := by
  induction a with
  | nil => rfl
  | cons o a ih => cases o <;> simp only [List.cons_append, storedBytes, ih]

theorem takenBytes_append (a c : List OpOutcome) : takenBytes (a ++ c) = takenBytes a ++ takenBytes c := by
  induction a with
  | nil => rfl
  | cons o a ih =>
    cases o with
    | dequeued r => cases r <;> simp only [List.cons_append, takenBytes, ih]
    | _ => simp only [List.cons_append, takenBytes, ih]

/-- What any trace of ENQs and DEQs keeps: the bytes stored are those returned, then those held. -/
structure FifoInv (s : State) : Prop where
  params : s.cfg.ok
  queue : QueueInv s
  balance : storedBytes s.outcomes = takenBytes s.outcomes ++ s.contents

theorem fifoInv_resetWith {c : Config} (hc : c.ok) : FifoInv (State.resetWith c) :=
  ⟨hc, (blockInv_resetWith hc).queue, rfl⟩

theorem FifoInv.enq (h : FifoInv s) (b : Byte) : ∃ t, exec (.enq b) s = .next t ∧ FifoInv t := by
  obtain ⟨hc, q, hbal⟩ := h
  by_cases hroom : s.contents.length < s.cfg.n - 1
  · obtain ⟨t, ht, hq, hcfg, hcont, hout⟩ := exec_enq_room hc.1 q b hroom
    refine ⟨t, ht, hcfg ▸ hc, hq, ?_⟩
    simp [hout, hcont, storedBytes_append, takenBytes_append, hbal, storedBytes, takenBytes]
  · have hfull : s.contents.length = s.cfg.n - 1 := by have := contents_length_le q; omega
    refine ⟨_, exec_enq_full hc.1 q b hfull, hc, q.record _, ?_⟩
    simp [storedBytes_append, takenBytes_append, hbal, storedBytes, takenBytes]

theorem FifoInv.deq (h : FifoInv s) : ∃ t, exec .deq s = .next t ∧ FifoInv t := by
  obtain ⟨hc, q, hbal⟩ := h
  cases hcs : s.contents with
  | nil =>
    refine ⟨_, exec_deq_nil q hcs, hc, q.record _, ?_⟩
    simp [storedBytes_append, takenBytes_append, hbal, hcs, storedBytes, takenBytes]
  | cons b cs =>
    obtain ⟨t, ht, hq, hcfg, hcont, hout⟩ := exec_deq_cons q hcs
    refine ⟨t, ht, hcfg ▸ hc, hq, ?_⟩
    simp [hout, hcont, storedBytes_append, takenBytes_append, hbal, hcs, storedBytes, takenBytes]

theorem FifoInv.runOps {ops : List Instr} (hops : ∀ i, i ∈ ops → i = .deq ∨ ∃ b, i = .enq b) (h : FifoInv s) :
    ∃ t, runOps ops s = .next t ∧ FifoInv t := by
  induction ops generalizing s with
  | nil => exact ⟨s, rfl, h⟩
  | cons i ops ih =>
    obtain ⟨u, hu, inv⟩ : ∃ u, exec i s = .next u ∧ FifoInv u := by
      rcases hops i List.mem_cons_self with rfl | ⟨b, rfl⟩
      · exact h.deq
      · exact h.enq b
    obtain ⟨t, ht, inv⟩ := ih (fun j hj => hops j (List.mem_cons_of_mem i hj)) inv
    exact ⟨t, (runOps_cons_next hu).trans ht, inv⟩

/-- Settles O9: the bytes held are what separates the bytes returned from the bytes stored (`FifoInv`). -/
theorem dequeuedBytesAreAPrefixOfStored : Obligations.DequeuedBytesAreAPrefixOfStored := by
  intro c ops hc hops
  obtain ⟨t, ht, inv⟩ := (fifoInv_resetWith hc).runOps hops
  exact ⟨t, ht, t.contents, inv.balance.symm⟩

/-! Capacity (R75) -/

/-- Bytes received with no DEQ between them: as many as there is room for are stored, every later one dropped. -/
theorem rx_outcomes (hn : 2 ≤ s.cfg.n) (q : QueueInv s) (bs : List Byte) {room : Nat}
    (hroom : s.contents.length + room = s.cfg.n - 1) :
    ∃ t, runOps (rx bs) s = .next t ∧ QueueInv t ∧ t.contents = s.contents ++ bs.take room ∧
      t.outcomes = s.outcomes ++ (bs.take room).map OpOutcome.stored ++ (bs.drop room).map OpOutcome.dropped := by
  induction bs generalizing s room with
  | nil => exact ⟨s, rfl, q, by simp, by simp⟩
  | cons b bs ih =>
    cases room with
    | zero =>
      obtain ⟨t, ht, hq, hcont, hout⟩ := ih (s := s.record (.dropped b)) hn (q.record _) hroom
      exact ⟨t, (runOps_cons_next (exec_enq_full hn q b hroom)).trans ht, hq, by simpa using hcont, by simpa using hout⟩
    | succ room =>
      obtain ⟨u, hu, hqu, hcfg, hcu, hou⟩ := exec_enq_room hn q b (by omega)
      obtain ⟨t, ht, hq, hcont, hout⟩ := ih (hcfg ▸ hn) hqu (room := room) (by rw [hcu, hcfg, List.length_append]; simp; omega)
      exact ⟨t, (runOps_cons_next hu).trans ht, hq, by simp [hcont, hcu], by simp [hout, hou]⟩

/-- As many DEQs as bytes are held return them in order. -/
theorem deq_outcomes (q : QueueInv s) (hc : s.contents = cs) :
    ∃ t, runOps (List.replicate cs.length .deq) s = .next t ∧ QueueInv t ∧ t.contents = [] ∧
      t.outcomes = s.outcomes ++ cs.map fun b => OpOutcome.dequeued (some b) := by
  induction cs generalizing s with
  | nil => exact ⟨s, rfl, q, hc, by simp⟩
  | cons b cs ih =>
    obtain ⟨u, hu, hqu, -, hcu, hou⟩ := exec_deq_cons q hc
    obtain ⟨t, ht, hq, hcont, hout⟩ := ih hqu hcu
    exact ⟨t, (runOps_cons_next hu).trans ht, hq, hcont, by simp [hout, hou]⟩

/-- Settles O10: fill (`rx_outcomes`), empty (`deq_outcomes`), and one DEQ more (`exec_deq_nil`). -/
theorem fillAndDrain : Obligations.FillAndDrain := by
  intro s bs hc q hht kept
  have hnil : s.contents = [] := contents_nil ((empty_iff_count q.tail_lt).mp (empty_iff_head_eq_tail.mpr hht))
  obtain ⟨u, hu, hqu, hcu, hou⟩ := rx_outcomes hc.1 q bs (room := s.cfg.n - 1) (by rw [hnil, List.length_nil, Nat.zero_add])
  obtain ⟨v, hv, hqv, hcv, hov⟩ := deq_outcomes hqu (cs := kept) (by rw [hcu, hnil, List.nil_append])
  refine ⟨v.record (.dequeued none), ?_, by rw [record_outcomes, hov, hou]⟩
  rw [runOps_append_next hu, List.replicate_succ', runOps_append_next hv, runOps_cons_next (exec_deq_nil hqv hcv)]; rfl

/-! Whole frames (R66) -/

/-- Settles O34: FRAME runs its bytes' ENQs where its length is in range, and is refused elsewhere. -/
theorem frameIsItsBytesReceived : Obligations.FrameIsItsBytesReceived := by
  refine fun p s => ⟨fun hpos hlt => exec_frame_of_lengthInRange (lengthInRange_iff.mpr ⟨hpos, hlt⟩), fun hout => ?_⟩
  simp only [exec, execFrame, lengthInRange_eq_false_iff.mpr hout, Bool.false_eq_true, if_false]

/-- Received bytes reach no slot but the ones from `head` on. -/
theorem rx_slot_frame (hh : s.head < s.cfg.n) (h : runOps (rx bs) s = .next t) {a : Nat}
    (ha : ∀ k, k < bs.length → a ≠ (s.head + k) % s.cfg.n) : Memory.read t.slot a = Memory.read s.slot a := by
  induction bs generalizing s with
  | nil => cases h; rfl
  | cons b bs ih =>
    obtain ⟨u, hu, hrest⟩ := runOps_cons_eq_next h
    obtain ⟨o, v, he, rfl⟩ := exec_enq_next hu
    rcases enqueue_cases he with ⟨-, -, rfl⟩ | ⟨-, -, -, rfl⟩
    · exact (ih (s := v.record o) hh hrest fun k hk => ha k (Nat.lt_succ_of_lt hk) :)
    · have h0 : a ≠ s.head := by simpa [Nat.mod_eq_of_lt hh] using ha 0 (Nat.succ_pos _)
      rw [← Memory.read_write_other s.slot b h0]
      refine ih (advance_lt _ (show 0 < s.cfg.n by omega)) hrest fun k hk => ?_
      simpa [advance_eq_mod hh, Nat.add_assoc, Nat.add_comm 1 k] using ha (k + 1) (Nat.succ_lt_succ hk)

/-- Bytes that find room are all stored, behind what the queue holds. -/
theorem rx_contents (hn : 2 ≤ s.cfg.n) (q : QueueInv s) (hroom : s.count + bs.length ≤ s.cfg.n - 1) :
    ∃ t, runOps (rx bs) s = .next t ∧ t.contents = s.contents ++ bs := by
  rw [← contents_length q] at hroom
  obtain ⟨t, ht, -, hcont, -⟩ := rx_outcomes hn q bs (room := s.cfg.n - 1 - s.contents.length) (by omega)
  exact ⟨t, ht, by rw [hcont, List.take_of_length_le (by omega)]⟩

/-- Settles O35: the frame's bytes find room (`rx_contents`) and reach their own slots alone (`rx_slot_frame`, `producerKeeps_rx`). -/
theorem frameArrivesWhole : Obligations.FrameArrivesWhole := by
  intro p s inv hpos hlt hroom
  obtain ⟨t, ht, hcont⟩ := rx_contents inv.params.1 inv.queue (bs := frameOf p) (by rw [frameOf_length]; exact hroom)
  obtain ⟨htail, hregs, hbuf, hbusy, houts, hset⟩ := producerKeeps_rx ht
  refine ⟨t, (exec_frame_of_lengthInRange (lengthInRange_iff.mpr ⟨hpos, hlt⟩)).trans ht, hcont, fun a ha => ?_,
    htail, hbuf, hbusy, hregs, houts, hset⟩
  exact rx_slot_frame inv.queue.head_lt ht (by rw [frameOf_length]; exact ha)

end Sys2Proof.Machine
end

section
/-! PROOF. Bytes in front of the parser: what each leaves alone, whole frames accepted and rejected, and the return to `Idle`
(41_frameparser.md R81 to R94, 70_reset_and_hazards.md R153). -/

namespace Sys2Proof.Machine

variable {s t u : State} {b : Byte} {k : ByteClass} {p q : List Byte} {n : Nat}

/-! One byte -/

/-- Settles O13: FEED and the row both end in `feedByte_lenOk`'s state. -/
theorem validLengthStartsPayload : Obligations.ValidLengthStartsPayload := by
  intro b s hp hpos hlt
  have hf := feedByte_lenOk hp ⟨hpos, hlt⟩
  exact ⟨exec_feed_of_ok hf, exec_instrOfClass_of_ok hf⟩

/-- Settles O17: FEED and the row both end in `feedByte_csumOk`'s state. -/
theorem matchingChecksumDelivers : Obligations.MatchingChecksumDelivers := by
  intro p s hp hi hr
  have hf := feedByte_csumOk hp hi hr
  exact ⟨exec_feed_of_ok hf, exec_instrOfClass_of_ok hf, Memory.readRange_length hr⟩

/-- A byte writes the buffer at `writeIndex` as a payload byte and at `declaredLength` as a matching checksum byte, and nowhere else. -/
theorem feedByte_buffer_frame (h : feedByte b s = .ok (k, u)) {a : Nat} (hpay : ¬ (s.pstate = .payloadAccumulating ∧ a = s.writeIndex))
    (hsum : ¬ (s.pstate = .checksumExpected ∧ b = s.acc ∧ a = s.declaredLength.toNat)) :
    Memory.read u.payloadBuffer a = Memory.read s.payloadBuffer a := by
  rcases feedByte_cases h with ⟨-, -, -, rfl⟩ | ⟨-, -, -, rfl⟩ | ⟨-, -, -, rfl⟩ | ⟨-, -, -, rfl⟩ | ⟨hp, -, -, rfl⟩ |
    ⟨-, -, -, rfl⟩ | ⟨_, hp, hb, -, -, -, rfl⟩
  case inr.inr.inr.inr.inl =>
    rw [afterPayload_payloadBuffer]; exact Memory.read_write_other _ _ fun ha => hpay ⟨hp, ha⟩
  case inr.inr.inr.inr.inr.inr => exact Memory.read_write_other _ _ fun ha => hsum ⟨hp, hb, ha⟩
  all_goals rfl

/-- Settles O19: the queue's side never changes (`feedByte_keeps`), the buffer as `feedByte_buffer_frame` says, and the registers as
each state's effect says. -/
theorem feedFrame : Obligations.FeedFrame := by
  intro i s t hi h
  obtain ⟨k, u, hf, rfl⟩ := exec_feed_next (exec_feedRow_next hi h)
  obtain ⟨hq, hbusy, htx, hset, -⟩ := feedByte_keeps hf
  refine ⟨hq, hbusy, htx, hset, fun a => feedByte_buffer_frame hf, ?_⟩
  cases hp : s.pstate with
  | idle =>
    cases feedByte_of_idle hp hf
    simp
  | lengthExpected =>
    rw [feedByte_of_lengthExpected hp hf]
    split <;> simp
  | payloadAccumulating =>
    rw [feedByte_of_payloadAccumulating hp hf]
    simp
  | checksumExpected =>
    rcases feedByte_of_checksumExpected hp hf with ⟨hb, p, -, rfl⟩ | ⟨-, rfl⟩
    · simp [hb]
    · simp

/-- Settles O26: only a matching checksum byte delivers, and under the invariant `acc` is then the sum of what it delivers (I4). -/
theorem deliveredPayloadHasItsChecksum : Obligations.DeliveredPayloadHasItsChecksum := by
  intro b s t inv h hne
  obtain ⟨k, u, hf, rfl⟩ := exec_feed_next h
  rcases feedByte_deliveries hf with ⟨-, hsame⟩ | ⟨rfl, hs, -⟩
  · exact absurd hsame hne
  · obtain ⟨hpos, hlt, -, p, hr, hacc⟩ := inv.parser.checksum hs
    rcases feedByte_of_checksumExpected hs hf with ⟨hb, p', hr', rfl⟩ | ⟨-, rfl⟩
    · cases hr.symm.trans hr'
      have hl := Memory.readRange_length hr
      exact ⟨p, by rw [record_deliveries, afterDelivery_deliveries, hl], by rw [hb, hacc], by omega, by omega⟩
    · exact absurd rfl hne

/-! A frame in progress -/

/-- The state `t` reached from `s` by a start marker, a length byte `n` and the payload bytes `q`. -/
structure ParsedTo (n : Nat) (q : List Byte) (s t : State) : Prop where
  pstate : t.pstate = if q.length = n then .checksumExpected else .payloadAccumulating
  declared : t.declaredLength.toNat = n
  index : t.writeIndex = q.length
  sum : t.acc = cksum q
  stored : Memory.readRange t.payloadBuffer 0 q.length = some q
  outcomes : t.outcomes = s.outcomes ++ [.fed .idleSof, .fed .lenOk] ++ List.replicate q.length (.fed .payload)
  deliveries : t.deliveries = s.deliveries
  queue : KeepsQueue s t
  busy : t.busy = s.busy
  tx : t.tx = s.tx
  setting : KeepsSetting s t

/-- After a start marker and a valid length byte the payload is empty. -/
theorem parsedTo_header (hs : s.pstate = .idle) (hpos : 0 < b.toNat) (hlt : b.toNat < s.cfg.maxPayload) :
    ∃ t, runOps (feeds [sof, b]) s = .next t ∧ ParsedTo b.toNat [] s t := by
  have h1 := exec_feed_of_ok (feedByte_idleSof hs)
  have h2 := exec_feed_of_ok (feedByte_lenOk (s := (s.setPstate .lengthExpected).record (.fed .idleSof)) (b := b) rfl ⟨hpos, hlt⟩)
  refine ⟨_, (runOps_cons_next h1).trans (runOps_cons_next h2), ?_⟩
  have hne : 0 ≠ b.toNat := by omega
  constructor <;> simp [hne, KeepsQueue, KeepsSetting]

/-- One payload byte more. -/
theorem ParsedTo.payload (h : ParsedTo n q s t) (hq : q.length < n) (hn : n < s.cfg.maxPayload) (b : Byte) :
    ∃ u, exec (.feed b) t = .next u ∧ ParsedTo n (q ++ [b]) s u := by
  have hp : t.pstate = .payloadAccumulating := by rw [h.pstate, if_neg (by omega)]
  have hcfg : t.cfg = s.cfg := h.setting.1
  have hf := feedByte_payload (b := b) hp (by rw [h.index, hcfg]; omega)
  obtain ⟨hqu, hb, htx, hset, -⟩ := feedByte_keeps hf
  obtain ⟨g1, g2, g3⟩ := h.queue
  obtain ⟨k1, k2, k3⟩ := hqu
  refine ⟨_, exec_feed_of_ok hf, ?_⟩
  exact
    { pstate := by simp only [record_pstate, afterPayload_pstate, hp, h.index, h.declared, List.length_append, List.length_singleton]
      declared := by simp [h.declared]
      index := by simp [h.index]
      sum := by simp [h.sum, cksum_snoc, addByte]
      stored := by
        rw [record_payloadBuffer, afterPayload_payloadBuffer, List.length_append, List.length_singleton, h.index]
        refine Memory.readRange_succ_last ?_ (by simp)
        rw [Memory.readRange_write_outside _ _ (by omega), h.stored]
      outcomes := by simp [h.outcomes, List.replicate_succ']
      deliveries := by simp [h.deliveries]
      queue := ⟨k1.trans g1, k2.trans g2, k3.trans g3⟩
      busy := hb.trans h.busy
      tx := htx.trans h.tx
      setting := ⟨hset.1.trans h.setting.1, hset.2.trans h.setting.2⟩ }

theorem ParsedTo.feeds (h : ParsedTo n q s t) (p : List Byte) (hl : q.length + p.length ≤ n) (hn : n < s.cfg.maxPayload) :
    ∃ u, runOps (feeds p) t = .next u ∧ ParsedTo n (q ++ p) s u := by
  induction p generalizing q t with
  | nil => exact ⟨t, rfl, by rwa [List.append_nil]⟩
  | cons b p ih =>
    rw [List.length_cons] at hl
    obtain ⟨v, hv, hpv⟩ := h.payload (by omega) hn b
    obtain ⟨u, hu, hpu⟩ := ih hpv (by rw [List.length_append, List.length_singleton]; omega)
    exact ⟨u, (runOps_cons_next hv).trans hu, by rwa [List.append_assoc] at hpu⟩

/-- A valid frame up to its checksum byte. -/
theorem parsedTo_checksum (hc : s.cfg.ok) (hs : s.pstate = .idle) (hpos : 0 < p.length) (hlt : p.length < s.cfg.maxPayload) :
    ∃ t, runOps (feeds ([sof, BitVec.ofNat 8 p.length] ++ p)) s = .next t ∧ ParsedTo p.length p s t := by
  have hbyte := length_byte hlt hc.2.2
  obtain ⟨v, hv, hpv⟩ := parsedTo_header (b := BitVec.ofNat 8 p.length) hs (by rwa [hbyte]) (by rwa [hbyte])
  rw [hbyte] at hpv
  obtain ⟨t, ht, hpt⟩ := hpv.feeds p (by simp) hlt
  exact ⟨t, by rw [feeds_append, runOps_append_next hv, ht], hpt⟩

/-- Where the whole payload is in, the checksum is expected and the payload stands in the buffer. -/
theorem ParsedTo.complete (h : ParsedTo p.length p s t) :
    t.pstate = .checksumExpected ∧ Memory.readRange t.payloadBuffer 0 t.declaredLength.toNat = some p :=
  ⟨by rw [h.pstate, if_pos rfl], by rw [h.declared, h.stored]⟩

/-- The matching checksum byte then delivers the payload. -/
theorem ParsedTo.deliver (h : ParsedTo p.length p s t) (hlt : p.length < s.cfg.maxPayload) :
    feedByte (cksum p) t = .ok (.csumOk, afterDelivery p t) := by
  obtain ⟨hp, hr⟩ := h.complete
  rw [← h.sum]
  exact feedByte_csumOk hp (by rw [h.declared, h.setting.1]; exact hlt) hr

/-- Settles O22: the frame up to its checksum byte (`parsedTo_checksum`), and the byte that delivers (`ParsedTo.deliver`). -/
theorem wellFormedFrameIsDeliveredOnce : Obligations.WellFormedFrameIsDeliveredOnce := by
  intro p s hc hs hpos hlt
  obtain ⟨t, ht, hpt⟩ := parsedTo_checksum hc hs hpos hlt
  have hx := exec_feed_of_ok (hpt.deliver hlt)
  refine ⟨(afterDelivery p t).record (.fed .csumOk), ?_, ?_, ?_, rfl, hpt.declared, hpt.index, hpt.sum, ?_, ?_, hpt.queue,
    hpt.busy, hpt.tx⟩
  · rw [show frameOf p = ([sof, BitVec.ofNat 8 p.length] ++ p) ++ [cksum p] from rfl, feeds_append, runOps_append_next ht]
    exact runOps_cons_next hx
  · simp [hpt.outcomes]
  · simp [hpt.deliveries, hpt.declared]
  · rw [record_payloadBuffer, afterDelivery_payloadBuffer, hpt.declared, Memory.readRange_write_outside _ _ (by omega), hpt.stored]
  · rw [record_payloadBuffer, afterDelivery_payloadBuffer, hpt.declared, Memory.read_write_same]; rfl

/-- Settles O23: (a) a wrong byte after `parsedTo_checksum`, (b) an invalid length byte after the start marker. -/
theorem badFramesAreRejected : Obligations.BadFramesAreRejected := by
  refine ⟨fun p c s hc hs hpos hlt hne => ?_, fun n s hs hbad => ?_⟩
  · obtain ⟨t, ht, hpt⟩ := parsedTo_checksum hc hs hpos hlt
    have hx := exec_feed_of_ok (feedByte_csumBad hpt.complete.1 (b := c) (by rwa [hpt.sum]))
    refine ⟨(t.setPstate .idle).record (.fed .csumBad), ?_, by rw [record_outcomes, setPstate_outcomes, hpt.outcomes],
      hpt.deliveries, rfl⟩
    rw [feeds_append, show ([0xAA, BitVec.ofNat 8 p.length] : List Byte) = [sof, BitVec.ofNat 8 p.length] from rfl,
      runOps_append_next ht]
    exact runOps_cons_next hx
  · have hlen : ¬ (0 < n.toNat ∧ n.toNat < s.cfg.maxPayload) := by
      rintro ⟨hpos, hlt⟩
      rcases hbad with rfl | hle
      · exact absurd hpos (by decide)
      · omega
    have h1 := exec_feed_of_ok (feedByte_idleSof hs)
    have h2 := exec_feed_of_ok (feedByte_lenBad (s := (s.setPstate .lengthExpected).record (.fed .idleSof)) rfl hlen)
    exact ⟨_, (runOps_cons_next h1).trans (runOps_cons_next h2), by simp, rfl, rfl⟩

/-- Settles O31: what SEND hands over is the wire frame (`frameGroups_flatten`), and the parser delivers its payload. -/
theorem sentFrameParsesBack : Obligations.SentFrameParsesBack := by
  intro p s r hc hcfg hr hpos hlt
  obtain ⟨t, ht, -, hd, -⟩ := wellFormedFrameIsDeliveredOnce p r (hcfg ▸ hc) hr hpos (hcfg ▸ hlt)
  exact ⟨_, t, frameGroups p, exec_send_sent (lengthInRange_iff.mpr ⟨hpos, hlt⟩), rfl, by rw [frameGroups_flatten]; exact ht, hd⟩

/-! The return to `Idle` (R92, R153) -/

/-- At most how many bytes bring the parser back to `Idle`: those of the frame in progress, or of the longest one where its length is
not yet known. -/
def bytesToIdle (s : State) : Nat :=
  match s.pstate with
  | .idle => 0
  | .lengthExpected => s.cfg.maxPayload + 1
  | .payloadAccumulating => s.declaredLength.toNat - s.writeIndex + 1
  | .checksumExpected => 1

theorem bytesToIdle_eq_zero_iff : bytesToIdle s = 0 ↔ s.pstate = .idle := by
  unfold bytesToIdle; split <;> simp_all

theorem bytesToIdle_le (inv : BlockInv s) : bytesToIdle s ≤ s.cfg.maxPayload + 1 := by
  cases hp : s.pstate with
  | payloadAccumulating =>
    obtain ⟨-, hlt, -⟩ := inv.parser.accumulating hp
    simp only [bytesToIdle, hp]; omega
  | _ => simp [bytesToIdle, hp]

/-- Outside `Idle` every byte brings the parser nearer to it. -/
theorem bytesToIdle_feedByte (inv : BlockInv s) (hs : s.pstate ≠ .idle) (h : feedByte b s = .ok (k, u)) :
    bytesToIdle u < bytesToIdle s := by
  cases hp : s.pstate with
  | idle => exact absurd hp hs
  | lengthExpected =>
    rw [feedByte_of_lengthExpected hp h]
    split
    · simp [bytesToIdle, hp]; omega
    · simp [bytesToIdle, hp]
  | payloadAccumulating =>
    obtain ⟨-, -, hlt, -⟩ := inv.parser.accumulating hp
    rw [feedByte_of_payloadAccumulating hp h]
    by_cases hlast : s.writeIndex + 1 = s.declaredLength.toNat
    · simp [bytesToIdle, hp, afterPayload_pstate, hlast]; omega
    · simp [bytesToIdle, hp, afterPayload_pstate, hlast]; omega
  | checksumExpected =>
    rcases feedByte_of_checksumExpected hp h with ⟨-, p, -, rfl⟩ | ⟨-, rfl⟩ <;> simp [bytesToIdle, hp]

theorem feeds_reach_idle (bs : List Byte) (inv : BlockInv s) (hl : bytesToIdle s ≤ bs.length) :
    ∃ k t, k ≤ bs.length ∧ runOps (feeds (bs.take k)) s = .next t ∧ t.pstate = .idle := by
  induction bs generalizing s with
  | nil => exact ⟨0, s, Nat.le_refl _, rfl, bytesToIdle_eq_zero_iff.mp (Nat.le_zero.mp hl)⟩
  | cons b bs ih =>
    by_cases hs : s.pstate = .idle
    · exact ⟨0, s, Nat.zero_le _, rfl, hs⟩
    · obtain ⟨c, u, hf⟩ := inv.feedByte_completes b
      have hdown : bytesToIdle u < bytesToIdle s := bytesToIdle_feedByte inv hs hf
      have hrec : bytesToIdle (u.record (.fed c)) = bytesToIdle u := rfl
      rw [List.length_cons] at hl
      obtain ⟨k, t, hk, ht, hi⟩ := ih ((inv.of_feedByte hf).record (.fed c)) (by omega)
      exact ⟨k + 1, t, Nat.succ_le_succ hk, (runOps_cons_next (exec_feed_of_ok hf)).trans ht, hi⟩

/-- Settles O24: `MAX_PAYLOAD + 1` bounds the bytes to `Idle` in every state (`bytesToIdle_le`). -/
theorem parserReturnsToIdle : Obligations.ParserReturnsToIdle :=
  fun bs _ inv hl => feeds_reach_idle bs inv (hl ▸ bytesToIdle_le inv)

/-- Zero bytes leave `Idle` as it is. -/
theorem feeds_zeros_idle (n : Nat) (hs : s.pstate = .idle) :
    ∃ t, runOps (feeds (List.replicate n 0x00)) s = .next t ∧ t.pstate = .idle := by
  induction n generalizing s with
  | zero => exact ⟨s, rfl, hs⟩
  | succ n ih =>
    have hx := exec_feed_of_ok (feedByte_idleSkip (b := 0x00) hs (by decide))
    obtain ⟨t, ht, hi⟩ := ih (s := s.record (.fed .idleSkip)) hs
    exact ⟨t, (runOps_cons_next hx).trans ht, hi⟩

/-- Settles O25: some of the zero bytes bring the parser to `Idle` (`parserReturnsToIdle`), and the others leave it there. -/
theorem zeroFlushEndsInIdle : Obligations.ZeroFlushEndsInIdle := by
  intro s inv
  obtain ⟨k, u, hk, hu, hi⟩ := parserReturnsToIdle (List.replicate (s.cfg.maxPayload + 1) 0x00) s inv List.length_replicate
  obtain ⟨t, ht, hidle⟩ := feeds_zeros_idle (s.cfg.maxPayload + 1 - k) hi
  refine ⟨t, ?_, hidle⟩
  rw [← List.take_append_drop k (List.replicate _ _), feeds_append, runOps_append_next hu, List.drop_replicate, ht]

end Sys2Proof.Machine
end

section
/-! PROOF. POLL and RESPOND (41_frameparser.md R88, R89), and the rules about every operation: who writes what, what reaches the
outputs, what sets and clears `busy`, what an error changes (60_exceptions.md R124 to R135, 10_state.md R24, R29). -/

namespace Sys2Proof.Machine

variable {s t u : State} {b : Byte} {k : ByteClass} {o : OpOutcome} {i : Instr} {resp : List Byte}

/-! POLL and RESPOND -/

theorem pollBody_empty (he : s.empty = true) : pollBody s = .ok (.polled none, s) := by
  simp [pollBody, dequeue_empty he]

theorem pollBody_of_feedByte (he : s.empty = false) (ht : s.tail < s.cfg.n) (hr : Memory.read s.slot s.tail = some b)
    (hf : feedByte b (s.setTail (advance s.cfg.n s.tail)) = .ok (k, u)) :
    pollBody s = .ok (.polled (some k), if k = .csumOk then u.setBusy true else u) := by
  simp [pollBody, dequeue_some he ht hr, hf]

theorem exec_poll_refused (hb : s.busy = true) : exec .poll s = .refused .pollNotEnabled := by
  simp [exec, execPoll, hb]

theorem exec_poll_empty (hb : s.busy = false) (he : s.empty = true) : exec .poll s = .next (s.record (.polled none)) :=
  exec_poll_of_ok hb (pollBody_empty he)

/-- Everything POLL can do. -/
theorem exec_poll_cases (h : exec .poll s = .next t) : s.busy = false ∧
    ((s.empty = true ∧ t = s.record (.polled none)) ∨
      ∃ b k u, s.empty = false ∧ s.tail < s.cfg.n ∧ Memory.read s.slot s.tail = some b ∧
        feedByte b (s.setTail (advance s.cfg.n s.tail)) = .ok (k, u) ∧
        t = (if k = .csumOk then u.setBusy true else u).record (.polled (some k))) := by
  obtain ⟨hb, o, v, hp, rfl⟩ := exec_poll_next h
  refine ⟨hb, ?_⟩
  rcases pollBody_cases hp with ⟨he, rfl, rfl⟩ | ⟨b, k, u, he, ht, hr, hf, rfl, rfl⟩
  · exact .inl ⟨he, rfl⟩
  · exact .inr ⟨b, k, u, he, ht, hr, hf, rfl⟩

/-- A byte given to a parser that is not waiting leaves `busy` clear, so setting it is all a delivery adds. -/
theorem setBusy_if (hu : u.busy = false) :
    (if k = .csumOk then u.setBusy true else u) = { u with busy := decide (k = .csumOk) } := by
  by_cases hk : k = .csumOk
  · rw [if_pos hk, decide_eq_true hk]; rfl
  · rw [if_neg hk, decide_eq_false hk, ← hu]

/-- Settles O27: the three cases of R88; the class that FEED applies is that of the byte at the parser's state before. -/
theorem pollIsDequeueThenFeed : Obligations.PollIsDequeueThenFeed := by
  intro s
  refine ⟨exec_poll_refused, fun hb he => exec_poll_empty hb (empty_iff_head_eq_tail.mpr he), fun b u hb hne ht hr hx => ?_⟩
  have he : s.empty = false := Bool.eq_false_iff.mpr (mt empty_iff_head_eq_tail.mp hne)
  rw [← advance_eq_mod ht] at hx
  obtain ⟨k, v, hf, rfl⟩ := exec_feed_next (s := s.setTail (advance s.cfg.n s.tail)) hx
  obtain ⟨-, hbusy, -, -, hout⟩ := feedByte_keeps hf
  have hk : k = classify s.ctx b := (feedByte_eq_ok hf).1
  rw [exec_poll_of_ok hb (pollBody_of_feedByte he ht hr hf), setBusy_if (hbusy.trans hb), ← hk, State.record, State.setOutcomes]
  simp only [hout, setTail_outcomes]
  rfl

/-- Settles O28: RESPOND is SEND, then `busy <- 0`, where it is enabled. -/
theorem respondSendsAndResumes : Obligations.RespondSendsAndResumes := by
  refine fun resp s => ⟨fun hb => exec_respond_refused hb resp, fun hb hpos hlt => ?_, fun hb hout => ?_⟩
  · rw [exec_respond_of_busy hb, sendBody_sent (lengthInRange_iff.mpr ⟨hpos, hlt⟩)]; rfl
  · rw [exec_respond_of_busy hb, sendBody_skipped (lengthInRange_eq_false_iff.mpr hout)]; rfl

/-- Settles O52: quiescence is an empty queue at `busy = 0`. -/
theorem quiescentPollChangesNothing : Obligations.QuiescentPollChangesNothing := by
  intro s h
  obtain ⟨he, hb⟩ : s.empty = true ∧ s.busy = false := by simpa [State.quiescent] using h
  exact ⟨exec_poll_empty hb he, exec_respond_refused hb⟩

/-! What the consumer's operations leave alone (R135) -/

/-- What a FEED or byte-class row leaves alone. -/
theorem feedRow_keeps (hi : isFeedRow i = true) (h : exec i s = .next t) : KeepsQueue s t ∧ t.busy = s.busy ∧ t.tx = s.tx := by
  obtain ⟨k, u, hf, rfl⟩ := exec_feed_next (exec_feedRow_next hi h)
  obtain ⟨hq, hb, htx, -⟩ := feedByte_keeps hf
  exact ⟨hq, hb, htx⟩

theorem poll_keeps (h : exec .poll s = .next t) : t.head = s.head ∧ t.slot = s.slot ∧ t.tx = s.tx ∧ KeepsSetting s t := by
  obtain ⟨-, ⟨-, rfl⟩ | ⟨b, k, u, -, -, -, hf, rfl⟩⟩ := exec_poll_cases h
  · exact ⟨rfl, rfl, rfl, rfl, rfl⟩
  · obtain ⟨⟨hs, hh, -⟩, -, htx, hset, -⟩ := feedByte_keeps hf
    split <;> exact ⟨hh, hs, htx, hset⟩

theorem deq_next (h : exec .deq s = .next t) : ∃ v o, t = (s.setTail v).record (.dequeued o) := by
  obtain ⟨r, u, hd, rfl⟩ := exec_deq_next h
  rcases dequeue_cases hd with ⟨-, -, rfl⟩ | ⟨b, -, -, -, -, rfl⟩
  · exact ⟨u.tail, r, rfl⟩
  · exact ⟨_, r, rfl⟩

/-- Settles O47: the producer's by `ProducerKeeps`, the consumer's operation by operation. -/
theorem agentsWriteOnlyTheirOwn : Obligations.AgentsWriteOnlyTheirOwn := by
  intro i s t h
  refine ⟨fun ha => ?_, fun ha => ?_⟩
  · obtain ⟨htail, hregs, hbuf, hbusy, houts, -⟩ : ProducerKeeps s t := by
      cases i with
      | enq b => exact producerKeeps_enq h
      | frame p => exact producerKeeps_frame h
      | _ => cases ha
    exact ⟨htail, hregs, hbuf, hbusy, houts⟩
  · cases i with
    | enq _ | frame _ | reset => cases ha
    | deq => obtain ⟨v, o, rfl⟩ := deq_next h; exact ⟨rfl, rfl⟩
    | poll => obtain ⟨hh, hs, -⟩ := poll_keeps h; exact ⟨hh, hs⟩
    | respond resp => rcases exec_respond_next h with ⟨-, ⟨-, rfl⟩ | ⟨-, rfl⟩⟩ <;> exact ⟨rfl, rfl⟩
    | send resp => rcases exec_send_next h with ⟨-, rfl⟩ | ⟨-, rfl⟩ <;> exact ⟨rfl, rfl⟩
    | feed _ | feedIdleSof | feedIdleSkip _ | feedLenBadZero | feedLenBadOver _ | feedLenOk _ | feedPayload _ | feedCsumOk _
    | feedCsumBad _ => obtain ⟨⟨hs, hh, -⟩, -⟩ := feedRow_keeps rfl h; exact ⟨hh, hs⟩

/-! What reaches the outputs -/

/-- A byte adds one delivery or none, and one exactly when its class is `FEED.CSUM.OK`. -/
theorem feedByte_deliveries_grow (h : feedByte b s = .ok (k, u)) :
    (k ≠ .csumOk ∧ u.deliveries = s.deliveries) ∨ (k = .csumOk ∧ ∃ d, u.deliveries = s.deliveries ++ [d]) := by
  rcases feedByte_deliveries h with hsame | ⟨rfl, -, -, p, -, rfl⟩
  · exact .inl hsame
  · exact .inr ⟨rfl, _, rfl⟩

/-- A POLL adds one delivery exactly when it sets `busy`. -/
theorem poll_deliveries (h : exec .poll s = .next t) :
    (t.busy = false ∧ t.deliveries = s.deliveries) ∨ (t.busy = true ∧ ∃ d, t.deliveries = s.deliveries ++ [d]) := by
  obtain ⟨hb, ⟨-, rfl⟩ | ⟨b, k, u, -, -, -, hf, rfl⟩⟩ := exec_poll_cases h
  · exact .inl ⟨hb, rfl⟩
  · obtain ⟨-, hbusy, -⟩ := feedByte_keeps hf
    rcases feedByte_deliveries_grow hf with ⟨hk, hd⟩ | ⟨rfl, d, hd⟩
    · exact .inl ⟨by rw [if_neg hk]; exact hbusy.trans hb, by rw [if_neg hk]; exact hd⟩
    · exact .inr ⟨rfl, d, hd⟩

theorem feedRow_deliveries (hi : isFeedRow i = true) (h : exec i s = .next t) :
    t.deliveries = s.deliveries ∨ ∃ d, t.deliveries = s.deliveries ++ [d] := by
  obtain ⟨k, u, hf, rfl⟩ := exec_feed_next (exec_feedRow_next hi h)
  exact (feedByte_deliveries_grow hf).imp And.right And.right

/-- Settles O48: SEND and RESPOND add the four groups or nothing, the parser's operations and POLL one delivery or none, and no other
operation reaches an output. -/
theorem outputsGrowOnlyAsSaid : Obligations.OutputsGrowOnlyAsSaid := by
  intro i s t h hne
  cases i with
  | reset => exact absurd rfl hne
  | enq b => exact ⟨.inl (producerKeeps_enq h).outputs.2, .inl (producerKeeps_enq h).outputs.1⟩
  | frame p => exact ⟨.inl (producerKeeps_frame h).outputs.2, .inl (producerKeeps_frame h).outputs.1⟩
  | deq => obtain ⟨v, o, rfl⟩ := deq_next h; exact ⟨.inl rfl, .inl rfl⟩
  | poll =>
    obtain ⟨-, -, htx, -⟩ := poll_keeps h
    exact ⟨.inl htx, (poll_deliveries h).imp And.right fun hd => ⟨.inl rfl, hd.2⟩⟩
  | send resp =>
    rcases exec_send_next h with ⟨hl, rfl⟩ | ⟨-, rfl⟩
    · obtain ⟨hpos, hlt⟩ := lengthInRange_iff.mp hl
      exact ⟨.inr ⟨resp, .inl rfl, hpos, hlt, rfl⟩, .inl rfl⟩
    · exact ⟨.inl rfl, .inl rfl⟩
  | respond resp =>
    rcases exec_respond_next h with ⟨-, ⟨hl, rfl⟩ | ⟨-, rfl⟩⟩
    · obtain ⟨hpos, hlt⟩ := lengthInRange_iff.mp hl
      exact ⟨.inr ⟨resp, .inr rfl, hpos, hlt, rfl⟩, .inl rfl⟩
    · exact ⟨.inl rfl, .inl rfl⟩
  | feed _ | feedIdleSof | feedIdleSkip _ | feedLenBadZero | feedLenBadOver _ | feedLenOk _ | feedPayload _ | feedCsumOk _
  | feedCsumBad _ =>
    obtain ⟨-, -, htx⟩ := feedRow_keeps rfl h
    exact ⟨.inl htx, (feedRow_deliveries rfl h).imp id fun hd => ⟨.inr rfl, hd⟩⟩

/-! `busy` -/

/-- The operations that may change `busy`. -/
theorem busy_changes (h : exec i s = .next t) (hne : t.busy ≠ s.busy) :
    (i = .poll ∧ s.busy = false) ∨ ((i = .reset ∨ ∃ resp, i = .respond resp) ∧ t.busy = false) := by
  cases i with
  | poll => exact .inl ⟨rfl, (exec_poll_cases h).1⟩
  | reset => cases h; exact .inr ⟨.inl rfl, rfl⟩
  | respond resp => rcases exec_respond_next h with ⟨-, ⟨-, rfl⟩ | ⟨-, rfl⟩⟩ <;> exact .inr ⟨.inr ⟨resp, rfl⟩, rfl⟩
  | enq b => exact absurd (producerKeeps_enq h).busy hne
  | frame p => exact absurd (producerKeeps_frame h).busy hne
  | deq => obtain ⟨v, o, rfl⟩ := deq_next h; exact absurd rfl hne
  | send resp => rcases exec_send_next h with ⟨-, rfl⟩ | ⟨-, rfl⟩ <;> exact absurd rfl hne
  | feed _ | feedIdleSof | feedIdleSkip _ | feedLenBadZero | feedLenBadOver _ | feedLenOk _ | feedPayload _ | feedCsumOk _
  | feedCsumBad _ => obtain ⟨-, hb, -⟩ := feedRow_keeps rfl h; exact absurd hb hne

theorem busy_set (h : exec i s = .next t) (hs : s.busy = false) (ht : t.busy = true) :
    i = .poll ∧ ∃ d, t.deliveries = s.deliveries ++ [d] := by
  rcases busy_changes h (by simp [hs, ht]) with ⟨rfl, -⟩ | ⟨-, hf⟩
  · rcases poll_deliveries h with ⟨hf, -⟩ | ⟨-, hd⟩
    · rw [ht] at hf; cases hf
    · exact ⟨rfl, hd⟩
  · rw [ht] at hf; cases hf

theorem busy_cleared (h : exec i s = .next t) (hs : s.busy = true) (ht : t.busy = false) : i = .reset ∨ ∃ resp, i = .respond resp := by
  rcases busy_changes h (by simp [hs, ht]) with ⟨-, hf⟩ | ⟨hi, -⟩
  · rw [hs] at hf; cases hf
  · exact hi

/-- Received bytes go behind the ones held. -/
theorem rx_contents_prefix {bs : List Byte} (inv : BlockInv s) (h : runOps (rx bs) s = .next t) : s.contents <+: t.contents := by
  have hle := contents_length_le inv.queue
  obtain ⟨u, hu, -, hcont, -⟩ := rx_outcomes inv.params.1 inv.queue bs (room := s.cfg.n - 1 - s.contents.length) (by omega)
  cases hu.symm.trans h
  exact hcont ▸ List.prefix_append _ _

theorem runOps_rx_singleton (b : Byte) (s : State) : runOps (rx [b]) s = exec (.enq b) s := by
  simp only [rx, List.map_cons, List.map_nil, runOps]; split <;> simp_all

/-- What the wait for a response keeps, moment by moment: `busy`, the queue's read side and the outputs; the queue only grows. -/
structure Waits (s t : State) : Prop where
  inv : BlockInv t
  busy : t.busy = true
  tail : t.tail = s.tail
  outputs : KeepsOutputs s t
  held : s.contents <+: t.contents

theorem Waits.rx {bs : List Byte} (w : Waits s t) (h : runOps (rx bs) t = .next u) : Waits s u := by
  have k := producerKeeps_rx h
  have inv := runOps_safe w.inv (Machine.rx bs)
  rw [h] at inv
  exact ⟨inv.1, k.busy.trans w.busy, k.tail.trans w.tail, ⟨k.outputs.1.trans w.outputs.1, k.outputs.2.trans w.outputs.2⟩,
    w.held.trans (rx_contents_prefix w.inv h)⟩

theorem Execution.waits_succ (e : Execution) {k : Nat} (w : Waits s (e.state k)) (hne : ¬ e.waitEndsAt k) : Waits s (e.state (k + 1)) := by
  rcases e.moment_cases k with ⟨-, hrest⟩ | ⟨i, hop, hx, ⟨b, rfl⟩ | rfl | ⟨resp, rfl⟩ | rfl | ⟨p, rfl⟩⟩
  · rwa [hrest]
  · exact w.rx ((runOps_rx_singleton b _).trans hx)
  · rw [exec_poll_refused w.busy] at hx; cases hx
  · exact absurd (.inr ⟨resp, hop⟩) hne
  · exact absurd (.inl hop) hne
  · exact w.rx (exec_frame_next hx).2

/-- Settles O49: the operations that change `busy` (`busy_set`, `busy_cleared`), and that an unanswered wait goes on (`Waits`). -/
theorem busyIsSetByDeliveryOnly : Obligations.BusyIsSetByDeliveryOnly := by
  refine ⟨fun i s t h => ⟨busy_set h, busy_cleared h⟩, fun e k inv hb hne j hj => ?_⟩
  have w : Waits (e.state k) (e.state j) := by
    induction j, hj using Nat.le_induction with
    | base => exact ⟨inv, hb, rfl, ⟨rfl, rfl⟩, List.prefix_refl _⟩
    | succ j hj ih => exact e.waits_succ ih (hne j hj)
  refine ⟨w.busy, w.tail, fun hop => ?_, w.outputs, w.held⟩
  have hx := e.moves j _ hop
  rw [exec_poll_refused w.busy] at hx; cases hx

/-! Transport errors (R119 to R130) -/

/-- A byte that raises an error only resynchronises the parser to `Idle`. -/
theorem feedByte_error {e : TransportError} (h : feedByte b s = .ok (k, u)) (he : (OpOutcome.fed k).error = some e) :
    u = s.setPstate .idle ∧ (e = .lengthViolation ∨ e = .checksumMismatch) := by
  rcases feedByte_cases h with ⟨-, -, rfl, rfl⟩ | ⟨-, -, rfl, rfl⟩ | ⟨-, -, rfl, rfl⟩ | ⟨-, -, rfl, rfl⟩ | ⟨-, -, rfl, rfl⟩ |
    ⟨-, -, rfl, rfl⟩ | ⟨p, -, -, rfl, -, -, rfl⟩ <;> cases he
  · exact ⟨rfl, .inl rfl⟩
  · exact ⟨rfl, .inr rfl⟩

theorem polled_error (k : ByteClass) : (OpOutcome.polled (some k)).error = (OpOutcome.fed k).error := by cases k <;> rfl

/-- An operation that raises an error does one of four things, by the error's kind. -/
theorem error_cases {e : TransportError} (h : exec i s = .next t) (hi : ∀ p, i ≠ .frame p) (ho : t.outcomes = s.outcomes ++ [o])
    (he : o.error = some e) :
    ((e = .queueOverflow ∨ e = .emitSkipped) ∧ t = s.record o) ∨
    (e = .emitSkipped ∧ (∃ resp, i = .respond resp) ∧ t = (s.setBusy false).record o) ∨
    ((e = .lengthViolation ∨ e = .checksumMismatch) ∧ t = (s.setPstate .idle).record o) ∨
    ((e = .lengthViolation ∨ e = .checksumMismatch) ∧ i = .poll ∧ ∃ v, t = ((s.setTail v).setPstate .idle).record o) := by
  cases i with
  | frame p => exact absurd rfl (hi p)
  | reset => cases h; simp [State.resetWith, State.setPending] at ho
  | enq b =>
    obtain ⟨o', u, hq, rfl⟩ := exec_enq_next h
    rcases enqueue_cases hq with ⟨-, rfl, rfl⟩ | ⟨-, -, rfl, rfl⟩ <;> cases List.append_cancel_left ho <;> cases he
    exact .inl ⟨.inl rfl, rfl⟩
  | deq =>
    obtain ⟨v, r, rfl⟩ := deq_next h
    cases List.append_cancel_left ho; cases he
  | send resp =>
    rcases exec_send_next h with ⟨-, rfl⟩ | ⟨-, rfl⟩ <;> cases List.append_cancel_left ho <;> cases he
    exact .inl ⟨.inr rfl, rfl⟩
  | respond resp =>
    rcases exec_respond_next h with ⟨-, ⟨-, rfl⟩ | ⟨-, rfl⟩⟩ <;> cases List.append_cancel_left ho <;> cases he
    exact .inr (.inl ⟨rfl, ⟨resp, rfl⟩, rfl⟩)
  | poll =>
    obtain ⟨-, ⟨-, rfl⟩ | ⟨b, k, u, -, -, -, hf, rfl⟩⟩ := exec_poll_cases h
    · cases List.append_cancel_left ho; cases he
    · obtain ⟨-, -, -, -, hout⟩ := feedByte_keeps hf
      have ho' : o = .polled (some k) := by
        split at ho <;> simp [hout] at ho <;> exact ho.symm
      subst ho'
      rw [polled_error] at he
      obtain ⟨rfl, hk⟩ := feedByte_error hf he
      have hne : k ≠ .csumOk := by rintro rfl; cases he
      rw [if_neg hne]
      exact .inr (.inr (.inr ⟨hk, rfl, _, rfl⟩))
  | feed _ | feedIdleSof | feedIdleSkip _ | feedLenBadZero | feedLenBadOver _ | feedLenOk _ | feedPayload _ | feedCsumOk _
  | feedCsumBad _ =>
    obtain ⟨k, u, hf, rfl⟩ := exec_feed_next (exec_feedRow_next rfl h)
    obtain ⟨-, -, -, -, hout⟩ := feedByte_keeps hf
    rw [record_outcomes, hout] at ho
    cases List.append_cancel_left ho
    obtain ⟨rfl, hk⟩ := feedByte_error hf he
    exact .inr (.inr (.inl ⟨hk, rfl⟩))

/-- Settles O50: the four cases of `error_cases`. -/
theorem transportErrorsAreSilent : Obligations.TransportErrorsAreSilent := by
  intro i s t o e h hi ho he
  rcases error_cases h hi ho he with ⟨rfl | rfl, rfl⟩ | ⟨rfl, ⟨resp, rfl⟩, rfl⟩ | ⟨rfl | rfl, rfl⟩ | ⟨rfl | rfl, rfl, v, rfl⟩ <;>
    simp [KeepsOutputs, KeepsSetting]

/-! The receive source's arming (R127) -/

/-- Settles O59: an armed byte is its ENQ, carried over to the surroundings; an unarmed one is lost. -/
theorem armingGatesReception : Obligations.ArmingGatesReception := by
  refine fun b w => ⟨fun ha t ht => ?_, fun ha => ?_, rfl⟩
  · rw [World.receive, if_pos ha, ht]; rfl
  · rw [World.receive, ha]; rfl

end Sys2Proof.Machine
end

section
/-! PROOF. Steps over a schedule are the trace of its operations (20_memory.md R43, R44): the parser reads nothing but its own part of the
state, and no operation reads the schedule. -/

namespace Sys2Proof.Machine

variable {s t u r : State} {b : Byte} {k : ByteClass} {i : Instr}

/-! The parser's part of the state -/

/-- `r` with the parser's part of `s`: the parameters, the parser's registers, the payload buffer and the deliveries. -/
def State.parserOnto (s r : State) : State :=
  { r with
    cfg := s.cfg
    pstate := s.pstate
    declaredLength := s.declaredLength
    acc := s.acc
    writeIndex := s.writeIndex
    payloadBuffer := s.payloadBuffer
    deliveries := s.deliveries }

theorem afterPayload_parserOnto (b : Byte) (s r : State) :
    afterPayload b (s.parserOnto r) = (afterPayload b s).parserOnto r := by
  unfold afterPayload
  by_cases hl : s.writeIndex + 1 = s.declaredLength.toNat
  · rw [if_pos hl, if_pos (show (s.parserOnto r).writeIndex + 1 = (s.parserOnto r).declaredLength.toNat from hl)]; rfl
  · rw [if_neg hl, if_neg (show ¬ (s.parserOnto r).writeIndex + 1 = (s.parserOnto r).declaredLength.toNat from hl)]; rfl

theorem onPayload_outside (b : Byte) (hi : s.cfg.maxPayload ≤ s.writeIndex) : onPayload b s = .error .payloadOutOfRange := by
  rw [onPayload, writePayload_outside b hi]

theorem onPayload_parserOnto (b : Byte) (s r : State) :
    onPayload b (s.parserOnto r) = (onPayload b s).map fun u => u.parserOnto r := by
  rcases Nat.lt_or_ge s.writeIndex s.cfg.maxPayload with hi | hi
  · rw [onPayload_ok hi, onPayload_ok (s := s.parserOnto r) hi, afterPayload_parserOnto]; rfl
  · rw [onPayload_outside b hi, onPayload_outside (s := s.parserOnto r) b hi]; rfl

theorem onCsumOk_outside (hi : s.cfg.maxPayload ≤ s.declaredLength.toNat) : onCsumOk s = .error .payloadOutOfRange := by
  rw [onCsumOk, writePayload_outside term hi]

theorem onCsumOk_unwritten (hi : s.declaredLength.toNat < s.cfg.maxPayload)
    (hr : Memory.readRange s.payloadBuffer 0 s.declaredLength.toNat = none) : onCsumOk s = .error .payloadUnwritten := by
  have hread : readPayload s.declaredLength.toNat
      (s.setPayloadBuffer (Memory.write s.payloadBuffer s.declaredLength.toNat term)) = .error .payloadUnwritten := by
    apply readPayload_unwritten
    rw [setPayloadBuffer_payloadBuffer, Memory.readRange_write_outside _ _ (by omega), hr]
  simp only [onCsumOk, writePayload_ok term hi, hread]

theorem onCsumOk_parserOnto (s r : State) : onCsumOk (s.parserOnto r) = (onCsumOk s).map fun u => u.parserOnto r := by
  rcases Nat.lt_or_ge s.declaredLength.toNat s.cfg.maxPayload with hi | hi
  · cases hr : Memory.readRange s.payloadBuffer 0 s.declaredLength.toNat with
    | none => rw [onCsumOk_unwritten hi hr, onCsumOk_unwritten (s := s.parserOnto r) hi hr]; rfl
    | some p => rw [onCsumOk_ok hi hr, onCsumOk_ok (s := s.parserOnto r) hi hr]; rfl
  · rw [onCsumOk_outside hi, onCsumOk_outside (s := s.parserOnto r) hi]; rfl

/-- A byte does to the parser's part what it does wherever that part stands, and leaves the rest alone. -/
theorem feedByte_parserOnto (b : Byte) (s r : State) :
    feedByte b (s.parserOnto r) = (feedByte b s).map fun x => (x.1, x.2.parserOnto r) := by
  have happly : applyClass (classify s.ctx b) b (s.parserOnto r) = (applyClass (classify s.ctx b) b s).map fun u => u.parserOnto r := by
    cases classify s.ctx b
    case payload => exact onPayload_parserOnto b s r
    case csumOk => exact onCsumOk_parserOnto s r
    all_goals rfl
  rw [feedByte, feedByte, show (s.parserOnto r).ctx = s.ctx from rfl, happly]
  cases applyClass (classify s.ctx b) b s <;> rfl

theorem feedByte_parserOnto_ok (h : feedByte b s = .ok (k, u)) (r : State) :
    feedByte b (s.parserOnto r) = .ok (k, u.parserOnto r) := by
  rw [feedByte_parserOnto, h]; rfl

/-! No operation reads the schedule -/

/-- Carries a change of the state over an operation's end. -/
def mapNext (f : State → State) : Host.Outcome State Fault Refusal → Host.Outcome State Fault Refusal
  | .next t => .next (f t)
  | .fault f => .fault f
  | .refused r => .refused r

theorem finish_setPending (x : Except Fault (OpOutcome × State)) (l : List PortEvent) :
    finish (x.map fun y => (y.1, y.2.setPending l)) = mapNext (fun t => t.setPending l) (finish x) := by
  cases x <;> rfl

variable (s) (l : List PortEvent)

theorem enqueue_setPending (b : Byte) : enqueue b (s.setPending l) = (enqueue b s).map fun y => (y.1, y.2.setPending l) := by
  rw [enqueue, enqueue, setPending_full, setPending_head, writeSlot, writeSlot, setPending_cfg]
  by_cases hf : s.full = true
  · rw [if_pos hf, if_pos hf]; rfl
  · rw [if_neg hf, if_neg hf]
    by_cases hi : s.head < s.cfg.n
    · rw [if_pos hi, if_pos hi]; rfl
    · rw [if_neg hi, if_neg hi]; rfl

theorem readSlot_setPending (j : Nat) : readSlot j (s.setPending l) = readSlot j s := rfl

theorem dequeue_setPending : dequeue (s.setPending l) = (dequeue s).map fun y => (y.1, y.2.setPending l) := by
  rw [dequeue, dequeue, setPending_empty, setPending_tail, readSlot_setPending]
  by_cases he : s.empty = true
  · rw [if_pos he, if_pos he]; rfl
  · rw [if_neg he, if_neg he]
    cases readSlot s.tail s <;> rfl

theorem feedByte_setPending (b : Byte) : feedByte b (s.setPending l) = (feedByte b s).map fun y => (y.1, y.2.setPending l) := by
  rw [show s.setPending l = s.parserOnto (s.setPending l) from rfl, feedByte_parserOnto]
  cases h : feedByte b s with
  | error f => rfl
  | ok x =>
    obtain ⟨⟨hs, hh, ht⟩, hb, htx, -, hout⟩ := feedByte_keeps h
    have hx : x.2.parserOnto (s.setPending l) = x.2.setPending l := by
      apply State.ext_fields <;> simp [State.parserOnto, hs, hh, ht, hb, htx, hout]
    exact congrArg (fun v => Except.ok (x.1, v)) hx

theorem pollBody_setPending : pollBody (s.setPending l) = (pollBody s).map fun y => (y.1, y.2.setPending l) := by
  rw [pollBody, pollBody, dequeue_setPending]
  match dequeue s with
  | .error f => rfl
  | .ok (none, v) => rfl
  | .ok (some b, v) =>
    simp only [Except.map, feedByte_setPending]
    match feedByte b v with
    | .error f => rfl
    | .ok (k, u) => cases k <;> rfl

theorem sendBody_setPending (resp : List Byte) :
    sendBody resp (s.setPending l) = ((sendBody resp s).1, (sendBody resp s).2.setPending l) := by
  rw [sendBody, sendBody, setPending_cfg]; split <;> rfl

theorem exec_enq_setPending (b : Byte) : exec (.enq b) (s.setPending l) = mapNext (fun t => t.setPending l) (exec (.enq b) s) := by
  simp only [exec, execEnq, enqueue_setPending, finish_setPending]

theorem runOps_rx_setPending (bs : List Byte) :
    runOps (rx bs) (s.setPending l) = mapNext (fun t => t.setPending l) (runOps (rx bs) s) := by
  induction bs generalizing s with
  | nil => rfl
  | cons b bs ih =>
    rw [rx, List.map_cons, runOps, runOps, exec_enq_setPending]
    cases exec (.enq b) s with
    | next t => exact ih t
    | fault f => rfl
    | refused r => rfl

theorem exec_feed_setPending (b : Byte) : exec (.feed b) (s.setPending l) = mapNext (fun t => t.setPending l) (exec (.feed b) s) := by
  simp only [exec, execFeed, feedByte_setPending]
  match feedByte b s with
  | .error f => rfl
  | .ok (k, u) => rfl

/-- The schedule neither changes what an operation does nor is changed by it. -/
theorem exec_setPending (i : Instr) : exec i (s.setPending l) = mapNext (fun t => t.setPending l) (exec i s) := by
  cases i with
  | enq b => exact exec_enq_setPending s l b
  | deq =>
    simp only [exec, execDeq, dequeue_setPending]
    match dequeue s with
    | .error f => rfl
    | .ok (r, v) => rfl
  | feed b => exact exec_feed_setPending s l b
  | poll =>
    simp only [exec, execPoll, setPending_busy, pollBody_setPending, finish_setPending]
    split <;> rfl
  | respond resp =>
    simp only [exec, execRespond, setPending_busy, sendBody_setPending]
    split <;> rfl
  | send resp => simp only [exec, execSend, sendBody_setPending]; rfl
  | reset => rfl
  | frame p =>
    simp only [exec, execFrame, setPending_cfg, enqueueAll_eq_runOps, runOps_rx_setPending]
    split <;> rfl
  | feedIdleSof | feedIdleSkip _ | feedLenBadZero | feedLenBadOver _ | feedLenOk _ | feedPayload _ | feedCsumOk _ | feedCsumBad _ =>
    rw [exec_classRow _ rfl, exec_classRow s rfl, exec_feed_setPending, setPending_ctx]
    split <;> rfl

/-! Steps -/

/-- Settles O40: `step_event` and `step_idle`, with the two branches of the consumer's turn. -/
theorem stepRunsDecodedOperation : Obligations.StepRunsDecodedOperation := by
  refine ⟨fun s e rest i hc hp hd => step_event hc hp hd, fun s hc hp hb => ?_, fun s hc hp hb => ?_⟩
  · rw [step_idle hc hp, idleTurn, if_neg (by simp [hb])]
  · rw [step_idle hc hp, idleTurn, if_pos hb]

/-- An operation that is no byte-class row is selected in every state. -/
theorem selected_of_not_classRow (x : DecodeCtx) (h : isClassRow i = false) : i.selected x = true := by
  cases i with
  | feedIdleSof | feedIdleSkip _ | feedLenBadZero | feedLenBadOver _ | feedLenOk _ | feedPayload _ | feedCsumOk _ | feedCsumBad _ =>
    cases h
  | _ => rfl

/-- One step takes the first operation off the schedule. -/
theorem step_encode (hc : s.cfg.ok) (hi : isClassRow i = false) (hwf : i.wf s.cfg = true) :
    step (s.setPending (encode i :: l)) = mapNext (fun t => t.setPending l) (exec i s) := by
  have hd := decodeOfEncode s.cfg s.ctx i hc rfl hwf (selected_of_not_classRow _ hi)
  rw [step_event (s := s.setPending (encode i :: l)) hc rfl hd, ← exec_setPending]; rfl

/-- Steps over a whole schedule are the trace of its operations. -/
theorem run_schedule {ops : List Instr} (hc : s.cfg.ok) (hops : ∀ i, i ∈ ops → isClassRow i = false ∧ i.wf s.cfg = true) :
    Sys2Proof.core.run ops.length (s.setPending (ops.map encode)) = mapNext (fun t => t.setPending []) (runOps ops s) := by
  induction ops generalizing s with
  | nil => rfl
  | cons i ops ih =>
    obtain ⟨hi, hwf⟩ := hops i List.mem_cons_self
    have hstep : Sys2Proof.core.step (s.setPending ((i :: ops).map encode)) =
        mapNext (fun t => t.setPending (ops.map encode)) (exec i s) := step_encode s (ops.map encode) hc hi hwf
    rw [List.length_cons]
    refine (core_run_succ _ _ _).trans ?_
    rw [hstep, runOps]
    cases hx : exec i s with
    | next t =>
      have hcfg : t.cfg = s.cfg := exec_cfg hx
      exact ih t (hcfg ▸ hc) fun j hj => hcfg ▸ hops j (List.mem_cons_of_mem i hj)
    | fault f => rfl
    | refused r => rfl

/-- A trace changes no schedule. -/
theorem runOps_setPending (ops : List Instr) :
    runOps ops (s.setPending l) = mapNext (fun t => t.setPending l) (runOps ops s) := by
  induction ops generalizing s with
  | nil => rfl
  | cons i ops ih =>
    rw [runOps, runOps, exec_setPending]
    cases exec i s with
    | next t => exact ih t
    | fault f => rfl
    | refused r => rfl

variable {s}

/-- The operations of an execution's moments are no byte classes, and the state that ran one makes its operands admissible. -/
theorem Execution.op_schedulable (e : Execution) {k : Nat} (h : e.op k = some i) :
    isClassRow i = false ∧ i.wf (e.state k).cfg = true := by
  rcases agent_instr_cases (e.agents k i h) with ⟨b, rfl⟩ | rfl | ⟨resp, rfl⟩ | rfl | ⟨p, rfl⟩
  case inr.inr.inr.inr =>
    obtain ⟨hl, -⟩ := exec_frame_next (e.moves k _ h)
    exact ⟨rfl, hl⟩
  all_goals exact ⟨rfl, rfl⟩

theorem Execution.cfg_eq (e : Execution) (n : Nat) : (e.state n).cfg = (e.state 0).cfg := by
  induction n with
  | zero => rfl
  | succ n ih =>
    rcases e.moment_cases n with ⟨-, hrest⟩ | ⟨i, -, hx, -⟩
    · rw [hrest, ih]
    · rw [exec_cfg hx, ih]

/-- Settles O41: `run_schedule`, and for an execution's beginning the trace of its operations (`Execution.runOps_opsBefore`). -/
theorem scheduleRunsAsTrace : Obligations.ScheduleRunsAsTrace := by
  refine ⟨fun ops s hc hops => ?_, fun e n hc hp => ?_⟩
  · exact (run_schedule s hc hops).trans (runOps_setPending s [] ops).symm
  · have hops : ∀ i, i ∈ e.opsBefore n → isClassRow i = false ∧ i.wf (e.state 0).cfg = true := by
      intro i hi
      obtain ⟨k, -, hk⟩ := List.mem_filterMap.mp hi
      exact e.cfg_eq k ▸ e.op_schedulable hk
    have htrace := runOps_setPending (e.state 0) [] (e.opsBefore n)
    rw [show (e.state 0).setPending [] = e.state 0 by rw [← hp]; rfl] at htrace
    exact (run_schedule (e.state 0) hc hops).trans (htrace.symm.trans (e.runOps_opsBefore n))

end Sys2Proof.Machine
end

section
/-! PROOF. One clock edge: ENQ and a consumer operation together, and what the ports show (20_memory.md R43, 10_state.md R29, R32). -/

namespace Sys2Proof.Machine

variable {s t p c u : State} {b : Byte} {k : ByteClass} {i : Instr} {resp : List Byte}

/-! Two operations on one edge (R43) -/

/-- The state after an edge whose ENQ alone gives `p` and whose consumer operation alone gives `c`. -/
def edgeMerge (s p c : State) : State :=
  ((c.setSlot p.slot).setHead p.head).setOutcomes (p.outcomes ++ c.outcomes.drop s.outcomes.length)

theorem sameEdge_of_next (hp : exec (.enq b) s = .next p) (hc : exec i s = .next c) :
    sameEdge b i s = .next (edgeMerge s p c) := by
  simp only [sameEdge, hp, hc]; rfl

theorem sameEdge_next (h : sameEdge b i s = .next t) :
    ∃ p c, exec (.enq b) s = .next p ∧ exec i s = .next c ∧ t = edgeMerge s p c := by
  unfold sameEdge at h
  split at h
  · cases h
  · cases h
  · rename_i p hp
    split at h
    · cases h
    · cases h
    · rename_i c hc
      cases h; exact ⟨p, c, hp, hc, rfl⟩

theorem runOps_two {j : Instr} (h1 : exec i s = .next t) (h2 : exec j t = .next u) : runOps [i, j] s = .next u := by
  rw [runOps_cons_next h1, runOps_cons_next h2]; rfl

/-- The byte at `tail` of a queue that holds one is not touched by an ENQ, and still is there to take. -/
theorem enq_keeps_first (hp : exec (.enq b) s = .next p) (he : s.empty = false) :
    p.empty = false ∧ Memory.read p.slot s.tail = Memory.read s.slot s.tail := by
  obtain ⟨o, v, hq, rfl⟩ := exec_enq_next hp
  have hne : s.head ≠ s.tail := of_decide_eq_false he
  rcases enqueue_cases hq with ⟨-, -, rfl⟩ | ⟨hf, -, -, rfl⟩
  · exact ⟨he, rfl⟩
  · exact ⟨decide_eq_false (of_decide_eq_false hf), Memory.read_write_other _ _ hne.symm⟩

/-- A POLL of a byte held takes it alike before and after an ENQ. -/
theorem exec_poll_after_enq (hp : exec (.enq b) s = .next p) (hc : exec .poll s = .next c) (he : s.empty = false) :
    exec .poll p = .next (edgeMerge s p c) := by
  have keep := producerKeeps_enq hp
  obtain ⟨hep, hread⟩ := enq_keeps_first hp he
  obtain ⟨hb, ⟨he', -⟩ | ⟨v, k, u, -, ht, hr, hf, rfl⟩⟩ := exec_poll_cases hc
  · rw [he] at he'; cases he'
  obtain ⟨htail, ⟨g1, g2, g3, g4⟩, g5, hbusy, ⟨g6, g7⟩, ⟨g8, g9⟩⟩ := keep
  have hpv : p.setTail (advance p.cfg.n p.tail) =
      (s.setTail (advance s.cfg.n s.tail)).parserOnto (p.setTail (advance s.cfg.n s.tail)) := by
    apply State.ext_fields <;> simp [State.parserOnto, htail, g1, g2, g3, g4, g5, g6, g8]
  have hfp := feedByte_parserOnto_ok hf (p.setTail (advance s.cfg.n s.tail))
  rw [← hpv] at hfp
  obtain ⟨⟨k1, k2, k3⟩, k4, k5, ⟨-, k6⟩, k7⟩ := feedByte_keeps hf
  rw [exec_poll_of_ok (hbusy.trans hb) (pollBody_of_feedByte hep (by rw [g8, htail]; exact ht) (by rw [htail, hread]; exact hr) hfp)]
  congr 1
  have hdrop : (s.outcomes ++ [OpOutcome.polled (some k)]).drop s.outcomes.length = [.polled (some k)] := List.drop_left
  by_cases hk : k = .csumOk
  · rw [if_pos hk, if_pos hk]
    apply State.ext_fields <;> simp [State.parserOnto, edgeMerge, k3, k5, k6, k7, g7, g9, hdrop]
  · rw [if_neg hk, if_neg hk]
    apply State.ext_fields <;> simp [State.parserOnto, edgeMerge, k3, k4, k5, k6, k7, g7, g9, hbusy, hdrop]

/-- RESPOND does the same before and after an ENQ. -/
theorem exec_respond_after_enq (hp : exec (.enq b) s = .next p) (hc : exec (.respond resp) s = .next c) :
    exec (.respond resp) p = .next (edgeMerge s p c) := by
  obtain ⟨hb, hcases⟩ := exec_respond_next hc
  obtain ⟨htail, ⟨g1, g2, g3, g4⟩, g5, hbusy, ⟨g6, g7⟩, ⟨g8, g9⟩⟩ := producerKeeps_enq hp
  rw [exec_respond_of_busy (hbusy.trans hb)]
  congr 1
  rcases hcases with ⟨hl, rfl⟩ | ⟨hl, rfl⟩
  · rw [sendBody_sent (by rwa [g8])]
    apply State.ext_fields <;> simp [edgeMerge, htail, g1, g2, g3, g4, g5, g6, g7, g8, g9]
  · rw [sendBody_skipped (by rwa [g8])]
    apply State.ext_fields <;> simp [edgeMerge, htail, g1, g2, g3, g4, g5, g6, g7, g8, g9]

/-- An ENQ after a consumer operation stores its byte where it would have before, if that operation does not change whether the queue
is full. -/
theorem exec_enq_after_consumer (hp : exec (.enq b) s = .next p) (hcfg : c.cfg = s.cfg) (hh : c.head = s.head)
    (hs : c.slot = s.slot) (hf : c.full = s.full) :
    ∃ u, exec (.enq b) c = .next u ∧ u.withoutOutcomes = (edgeMerge s p c).withoutOutcomes := by
  obtain ⟨o, v, hq, rfl⟩ := exec_enq_next hp
  rcases enqueue_cases hq with ⟨hfull, -, rfl⟩ | ⟨hroom, hi, -, rfl⟩
  · refine ⟨_, exec_enq_of_ok (enqueue_full b (hf.trans hfull)), ?_⟩
    apply State.ext_fields <;> simp [State.withoutOutcomes, edgeMerge, hh, hs]
  · refine ⟨_, exec_enq_of_ok (enqueue_room b (hf.trans hroom) (by rwa [hcfg, hh])), ?_⟩
    apply State.ext_fields <;> simp [State.withoutOutcomes, edgeMerge, hh, hs, hcfg]

theorem contents_congr (hc : t.cfg = s.cfg) (hq : KeepsQueue s t) : t.contents = s.contents := by
  obtain ⟨h1, h2, h3⟩ := hq
  unfold State.contents State.count State.queueIndex
  rw [hc, h1, h2, h3]

/-- POLL takes the oldest byte, if any. -/
theorem exec_poll_contents (q : QueueInv s) (h : exec .poll s = .next t) : t.contents = s.contents.tail := by
  obtain ⟨-, ⟨he, rfl⟩ | ⟨b, k, u, he, -, hr, hf, rfl⟩⟩ := exec_poll_cases h
  · rw [record_contents, contents_nil ((empty_iff_count q.tail_lt).mp he)]; rfl
  · have hu := contents_congr (feedByte_cfg hf) (feedByte_keeps hf).1
    rw [contents_cons q hr he, List.tail_cons, ← hu, record_contents]
    split <;> rfl

theorem exec_poll_not_full (inv : BlockInv s) (h : exec .poll s = .next t) (hf : s.full = false) : t.full = false := by
  have invt : BlockInv t := stepKeepsInvariants.1 _ _ _ inv h
  have hlt : s.contents.length < s.cfg.n - 1 := by
    have hne := mt (full_iff_length inv.params.1 inv.queue).mpr (Bool.eq_false_iff.mp hf)
    have := contents_length_le inv.queue
    omega
  refine Bool.eq_false_iff.mpr fun hft => ?_
  have hlen := (full_iff_length invt.params.1 invt.queue).mp hft
  rw [exec_poll_contents inv.queue h, List.length_tail, exec_cfg h] at hlen
  omega

/-- Settles O51: ENQ first by `exec_poll_after_enq` and `exec_respond_after_enq`, ENQ last by `exec_enq_after_consumer`. -/
theorem sameEdgeIsSomeInterleaving : Obligations.SameEdgeIsSomeInterleaving := by
  intro b s inv
  obtain ⟨o, v, hq⟩ := inv.enqueue_completes b
  have hp := exec_enq_of_ok hq
  refine ⟨fun hb => ?_, fun hb resp => ?_⟩
  · obtain ⟨o', w, hpoll, -⟩ := inv.pollBody_completes
    have hc := exec_poll_of_ok hb hpoll
    obtain ⟨hh, hs, -⟩ := poll_keeps hc
    refine ⟨_, sameEdge_of_next hp hc, fun he => runOps_two hp (exec_poll_after_enq hp hc he), fun hf => ?_⟩
    obtain ⟨u, hu, heq⟩ := exec_enq_after_consumer hp (exec_cfg hc) hh hs ((exec_poll_not_full inv hc hf).trans hf.symm)
    exact ⟨u, runOps_two hc hu, heq⟩
  · have hc := exec_respond_of_busy hb resp
    have hsame : ∃ tx, (sendBody resp s).2 = s.setTx tx := by
      cases hl : lengthInRange s.cfg.maxPayload resp.length
      · exact ⟨s.tx, by rw [sendBody_skipped hl]; rfl⟩
      · exact ⟨_, by rw [sendBody_sent hl]⟩
    obtain ⟨tx, htx⟩ := hsame
    rw [htx] at hc
    refine ⟨_, sameEdge_of_next hp hc, runOps_two hp (exec_respond_after_enq hp hc), ?_⟩
    obtain ⟨u, hu, heq⟩ := exec_enq_after_consumer hp (exec_cfg hc) rfl rfl rfl
    exact ⟨u, runOps_two hc hu, heq⟩

/-! The dispatcher's window (R29, R32) -/

/-- Settles O53: the standing payload is read byte by byte (`Memory.readRange_eq_some`), the terminator behind it, nothing beyond. -/
theorem deliveredPayloadStandsAtPorts : Obligations.DeliveredPayloadStandsAtPorts := by
  intro s inv
  refine ⟨fun hv => ?_, fun hv a => ?_⟩
  · have hb : s.busy = true := hv
    obtain ⟨-, -, -, hterm, p, hlast, hread⟩ := inv hb
    obtain ⟨hl, hk⟩ := Memory.readRange_eq_some.mp hread
    refine ⟨p, by rw [hlast, hl], hl.symm, fun a ha => ?_, ?_, fun a ha => ?_⟩
    · have hle : a ≤ s.declaredLength.toNat := by omega
      simpa [State.frameRdata, hb, hle] using hk a (by omega)
    · simpa [State.frameRdata, hb, hl, term] using hterm
    · have hgt : ¬ a ≤ s.declaredLength.toNat := by omega
      simp [State.frameRdata, hgt]
  · have hb : s.busy = false := hv
    simp [State.frameRdata, hb]

/-! One edge (R32) -/

theorem BlockInv.of_withoutOutcomes (inv : BlockInv s) (h : s.withoutOutcomes = t.withoutOutcomes) : BlockInv t := by
  have hs : BlockInv s.withoutOutcomes := inv.congr rfl ⟨rfl, rfl, rfl⟩ ⟨rfl, rfl, rfl, rfl⟩ rfl ⟨rfl, rfl⟩
  rw [h] at hs
  exact hs.congr (s := t.withoutOutcomes) rfl ⟨rfl, rfl, rfl⟩ ⟨rfl, rfl, rfl, rfl⟩ rfl ⟨rfl, rfl⟩

theorem BlockInv.runOps_next (inv : BlockInv s) {is : List Instr} (h : runOps is s = .next t) : BlockInv t := by
  have safe := runOps_safe inv is
  rw [h] at safe
  exact safe.1

/-- An edge's two operations, where both are enabled, keep the invariant: they are some interleaving of the two. -/
theorem BlockInv.sameEdge_completes (inv : BlockInv s) (b : Byte)
    (hi : (s.busy = false ∧ i = .poll) ∨ (s.busy = true ∧ ∃ resp, i = .respond resp)) :
    ∃ t, sameEdge b i s = .next t ∧ BlockInv t := by
  obtain ⟨hpoll, hresp⟩ := sameEdgeIsSomeInterleaving b s inv
  rcases hi with ⟨hb, rfl⟩ | ⟨hb, resp, rfl⟩
  · obtain ⟨t, ht, hfirst, hlast⟩ := hpoll hb
    refine ⟨t, ht, ?_⟩
    cases he : s.empty with
    | false => exact inv.runOps_next (hfirst he)
    | true =>
      have hf : s.full = false := Bool.eq_false_iff.mpr fun hf =>
        (emptyFullAndCount s inv.params.1 inv.queue.head_lt inv.queue.tail_lt).2.2.2.2 ⟨he, hf⟩
      obtain ⟨u, hu, heq⟩ := hlast hf
      exact (inv.runOps_next hu).of_withoutOutcomes heq
  · obtain ⟨t, ht, hfirst, -⟩ := hresp hb resp
    exact ⟨t, ht, inv.runOps_next hfirst⟩

variable {x : PortsIn} {h : Harness}

theorem Harness.consumerOp_respond (hb : h.block.busy = true) (hl : x.respLast = true) :
    h.consumerOp x = some (.respond (h.collected x)) := by simp [Harness.consumerOp, hb, hl]

theorem Harness.consumerOp_poll (hb : h.block.busy = false) (hl : x.poll = true) : h.consumerOp x = some .poll := by
  simp [Harness.consumerOp, hb, hl]

theorem Harness.consumerOp_none (hn : (h.block.busy = true ∧ x.respLast = false) ∨ (h.block.busy = false ∧ x.poll = false)) :
    h.consumerOp x = none := by
  rcases hn with ⟨hb, hl⟩ | ⟨hb, hl⟩ <;> simp [Harness.consumerOp, hb, hl]

/-- The consumer takes no operation at an edge, or one that is enabled. -/
theorem Harness.consumerOp_enabled {c : Instr} (hc : h.consumerOp x = some c) :
    (h.block.busy = false ∧ c = .poll) ∨ (h.block.busy = true ∧ ∃ resp, c = .respond resp) := by
  rcases Harness.consumerOp_some hc with ⟨hb, -, rfl⟩ | ⟨hb, -, rfl⟩
  · exact .inr ⟨hb, _, rfl⟩
  · exact .inl ⟨hb, rfl⟩

theorem Harness.edgeOps_eq (hr : x.rxValid = false) {o : Option Instr} (hc : h.consumerOp x = o) :
    h.edgeOps x = match o with
      | some c => exec c h.block
      | none => .next h.block := by
  cases o <;> simp [Harness.edgeOps, hr, hc]

theorem Harness.edgeOps_rx_eq (hr : x.rxValid = true) {o : Option Instr} (hc : h.consumerOp x = o) :
    h.edgeOps x = match o with
      | some c => sameEdge x.rxData c h.block
      | none => exec (.enq x.rxData) h.block := by
  cases o <;> simp [Harness.edgeOps, hr, hc]

/-- What an edge without `rst` leaves at the ports' side, by its operations' result. -/
theorem Harness.edge_block (hr : x.rst = false) (ht : h.edgeOps x = .next t) {bs : List Byte}
    (hbs : (if h.block.busy && x.respLast then [] else h.collected x) = bs) :
    ∃ h', h.edge x = .next h' ∧ h'.block = t ∧ h'.respBytes = bs :=
  ⟨_, Harness.edge_of_ops hr ht, rfl, hbs⟩

/-- Under the invariant the operations of an edge complete and keep it. -/
theorem Harness.edgeOps_completes (inv : BlockInv h.block) : ∃ t, h.edgeOps x = .next t ∧ BlockInv t := by
  obtain ⟨henq, -, -, hpoll, hresp, -⟩ := enabledOperationsComplete h.block inv
  have keep : ∀ {i t}, exec i h.block = .next t → BlockInv t := fun hx => stepKeepsInvariants.1 _ _ _ inv hx
  cases hc : h.consumerOp x with
  | none =>
    cases hr : x.rxValid with
    | false => exact ⟨_, Harness.edgeOps_eq hr hc, inv⟩
    | true =>
      obtain ⟨t, ht⟩ := henq x.rxData
      exact ⟨t, (Harness.edgeOps_rx_eq hr hc).trans ht, keep ht⟩
  | some c =>
    have hen := Harness.consumerOp_enabled hc
    cases hr : x.rxValid with
    | false =>
      obtain ⟨t, ht⟩ : ∃ t, exec c h.block = .next t := by
        rcases hen with ⟨hb, rfl⟩ | ⟨hb, resp, rfl⟩
        · exact hpoll hb
        · exact hresp hb resp
      exact ⟨t, (Harness.edgeOps_eq hr hc).trans ht, keep ht⟩
    | true =>
      obtain ⟨t, ht, invt⟩ := inv.sameEdge_completes x.rxData hen
      exact ⟨t, (Harness.edgeOps_rx_eq hr hc).trans ht, invt⟩

theorem Harness.edge_reset (hr : x.rst = true) :
    h.edge x = .next { block := (State.resetWith h.block.cfg).setPending h.block.pending, respBytes := [], txTaken := 0 } := by
  simp only [Harness.edge, hr]; rfl

/-- Settles O54: which operations an edge performs (`Harness.edgeOps_eq`, `Harness.edgeOps_rx_eq`) by what the consumer takes, and
under the invariants that they complete (`Harness.edgeOps_completes`). -/
theorem edgePerformsPortOperations : Obligations.EdgePerformsPortOperations := by
  intro x h taken
  have htaken : taken = h.collected x := by simp [taken, Harness.collected]
  rw [htaken]
  refine ⟨fun hr => ⟨_, rfl, Harness.edge_reset hr⟩, fun hr hn => ?_, fun hr hb hl => ?_, fun hr hb hl => ?_, fun inv => ?_⟩
  · have hc := Harness.consumerOp_none hn
    have hbs : (if h.block.busy && x.respLast then [] else h.collected x) = h.collected x := by
      rcases hn with ⟨-, hl⟩ | ⟨hb, -⟩
      · simp [hl]
      · simp [hb]
    exact ⟨fun hv => Harness.edge_block hr (Harness.edgeOps_eq hv hc) hbs,
      fun hv t ht => Harness.edge_block hr ((Harness.edgeOps_rx_eq hv hc).trans ht) hbs⟩
  · have hc := Harness.consumerOp_respond hb hl
    have hbs : (if h.block.busy && x.respLast then [] else h.collected x) = [] := by simp [hb, hl]
    exact ⟨fun hv t ht => Harness.edge_block hr ((Harness.edgeOps_eq hv hc).trans ht) hbs,
      fun hv t ht => Harness.edge_block hr ((Harness.edgeOps_rx_eq hv hc).trans ht) hbs⟩
  · have hc := Harness.consumerOp_poll hb hl
    have hbs : (if h.block.busy && x.respLast then [] else h.collected x) = h.respBytes := by simp [hb, Harness.collected_free hb]
    exact ⟨fun hv t ht => Harness.edge_block hr ((Harness.edgeOps_eq hv hc).trans ht) hbs,
      fun hv t ht => Harness.edge_block hr ((Harness.edgeOps_rx_eq hv hc).trans ht) hbs⟩
  · cases hr : x.rst with
    | true => exact ⟨_, Harness.edge_reset hr, (stepKeepsInvariants.1 .reset _ _ inv rfl :)⟩
    | false =>
      obtain ⟨t, ht, invt⟩ := Harness.edgeOps_completes (x := x) inv
      exact ⟨_, Harness.edge_of_ops hr ht, invt⟩

/-! The transmit port (R32) -/

/-- No operation but RESET takes anything back from the transmit output. -/
theorem exec_tx_prefix (hx : exec i s = .next t) (hne : i ≠ .reset) : s.tx <+: t.tx := by
  rcases (outputsGrowOnlyAsSaid i s t hx hne).1 with hsame | ⟨resp, -, -, -, hgrow⟩
  · rw [hsame]
  · exact ⟨_, hgrow.symm⟩

theorem sameEdge_tx_prefix (hx : sameEdge b i s = .next t) (hne : i ≠ .reset) : s.tx <+: t.tx := by
  obtain ⟨p, c, -, hc, rfl⟩ := sameEdge_next hx
  exact (exec_tx_prefix hc hne :)

theorem Harness.edgeOps_tx_prefix (ht : h.edgeOps x = .next t) : h.block.tx <+: t.tx := by
  cases hc : h.consumerOp x with
  | none =>
    cases hr : x.rxValid with
    | false => rw [Harness.edgeOps_eq hr hc] at ht; cases ht; exact List.prefix_refl _
    | true => rw [Harness.edgeOps_rx_eq hr hc] at ht; exact exec_tx_prefix ht (by simp)
  | some c =>
    have hne : c ≠ .reset := by rcases Harness.consumerOp_enabled hc with ⟨-, rfl⟩ | ⟨-, resp, rfl⟩ <;> simp
    cases hr : x.rxValid with
    | false => rw [Harness.edgeOps_eq hr hc] at ht; exact exec_tx_prefix ht hne
    | true => rw [Harness.edgeOps_rx_eq hr hc] at ht; exact sameEdge_tx_prefix ht hne

theorem Harness.txData_isSome : h.txData.isSome = decide (h.txTaken < h.block.tx.flatten.length) := by
  rw [Harness.txData]
  by_cases hlt : h.txTaken < h.block.tx.flatten.length
  · rw [List.getElem?_eq_getElem hlt, decide_eq_true hlt, Option.isSome_some]
  · rw [List.getElem?_eq_none (Nat.le_of_not_lt hlt), decide_eq_false hlt, Option.isSome_none]

/-- Settles O55: the transmit output only grows at an edge without `rst` (`Harness.edgeOps_tx_prefix`), so the byte at the count of
those accepted stays where it is. -/
theorem transmitPortFollowsOutput : Obligations.TransmitPortFollowsOutput := by
  refine ⟨fun h sent left hflat htaken => ?_, fun x h h' hle he => ?_⟩
  · rw [Harness.txData, hflat, htaken, List.getElem?_append_right (Nat.le_refl _), Nat.sub_self, List.head?_eq_getElem?]
  · rcases Harness.edge_next_cases he with ⟨hr, t, -, rfl⟩ | ⟨hr, hops, -, htx⟩
    · have hno : x.rst ≠ false := by simp [hr]
      exact ⟨Nat.zero_le _, fun h0 => absurd h0 hno, fun h0 => absurd h0 hno⟩
    · obtain ⟨gs, hgs⟩ := Harness.edgeOps_tx_prefix hops
      have hflat : h'.block.tx.flatten = h.block.tx.flatten ++ gs.flatten := by rw [← hgs, List.flatten_append]
      have htaken : h'.txTaken =
          if x.txReady = true ∧ h.txTaken < h.block.tx.flatten.length then h.txTaken + 1 else h.txTaken := by
        rw [htx, Harness.txData_isSome]; simp
      refine ⟨?_, fun _ => htaken, fun _ hready v hv => ?_⟩
      · rw [hflat, List.length_append, htaken]; split <;> omega
      · rw [if_neg (by simp [hready])] at htaken
        rw [Harness.txData, htaken, hflat]
        obtain ⟨hlt, -⟩ := List.getElem?_eq_some_iff.mp hv
        rw [List.getElem?_append_left hlt]; exact hv

end Sys2Proof.Machine
end

section
/-! PROOF. Draining: POLLs until the queue is empty or a payload is delivered, DRAIN itself, and in an endless execution with a fair
consumer and an answering environment (30_encoding.md R66, 41_frameparser.md R88 to R90, 70_reset_and_hazards.md R156, R161). -/

namespace Sys2Proof.Machine

variable {s t u : State} {b : Byte} {bs cs : List Byte} {k : Nat}

/-! One POLL -/

/-- A POLL of a byte held completes and takes it. -/
theorem pollBody_cons (inv : BlockInv s) (hb : s.busy = false) (hc : s.contents = b :: cs) :
    ∃ k u, pollBody s = .ok (.polled (some k), u) ∧ BlockInv u ∧ u.contents = cs ∧ u.outcomes = s.outcomes := by
  obtain ⟨o, u, hp, hu, -⟩ := inv.pollBody_completes
  have hcont := exec_poll_contents inv.queue (exec_poll_of_ok hb hp)
  rw [record_contents, hc, List.tail_cons] at hcont
  rcases pollBody_cases hp with ⟨he, -⟩ | ⟨b', k, v, -, -, -, hf, rfl, rfl⟩
  · rw [(dequeue_contents_cons inv.queue hc).1] at he; cases he
  · obtain ⟨-, -, -, -, hout⟩ := feedByte_keeps hf
    exact ⟨k, _, hp, hu, hcont, by split <;> exact hout⟩

theorem exec_poll_cons (inv : BlockInv s) (hb : s.busy = false) (hc : s.contents = b :: cs) :
    ∃ k t, exec .poll s = .next t ∧ BlockInv t ∧ t.contents = cs ∧ t.outcomes = s.outcomes ++ [.polled (some k)] := by
  obtain ⟨k, u, hp, hu, hcont, hout⟩ := pollBody_cons inv hb hc
  exact ⟨k, _, exec_poll_of_ok hb hp, hu.record _, hcont, by rw [record_outcomes, hout]⟩

/-- POLLs within the bytes held, each taking the oldest, until none is held or a payload is delivered. -/
theorem polls_end (inv : BlockInv s) (hb : s.busy = false) (hc : s.contents = cs) :
    ∃ k t, k ≤ cs.length ∧ runOps (List.replicate k .poll) s = .next t ∧ (t.contents = [] ∨ t.busy = true) ∧
      t.contents = cs.drop k := by
  induction cs generalizing s with
  | nil => exact ⟨0, s, Nat.le_refl _, rfl, .inl hc, hc⟩
  | cons b cs ih =>
    obtain ⟨-, u, hu, hinv, hcont, -⟩ := exec_poll_cons inv hb hc
    cases hub : u.busy with
    | true => exact ⟨1, u, Nat.succ_le_succ (Nat.zero_le _), (runOps_cons_next hu).trans rfl, .inr hub, hcont⟩
    | false =>
      obtain ⟨k, t, hk, ht, hend, hdrop⟩ := ih hinv hub hcont
      exact ⟨k + 1, t, Nat.succ_le_succ hk, (runOps_cons_next hu).trans ht, hend, hdrop⟩

/-! DRAIN -/

/-- From `s` to `t` by `k` POLLs, of which the last is the first that ends a DRAIN. -/
structure Drains (s : State) (k : Nat) (t : State) : Prop where
  runs : runOps (List.replicate k .poll) s = .next t
  ends : t.outcomes.getLast? = some (.polled none) ∨ t.busy = true
  taken : t.contents = s.contents.drop k
  first : ∀ j u, 0 < j → j < k → runOps (List.replicate j .poll) s = .next u →
    u.outcomes.getLast? ≠ some (.polled none) ∧ u.busy = false

theorem Drains.last (h : exec .poll s = .next t) (he : t.outcomes.getLast? = some (.polled none) ∨ t.busy = true)
    (hc : t.contents = s.contents.drop 1) : Drains s 1 t :=
  ⟨(runOps_cons_next h).trans rfl, he, hc, fun j u h0 h1 => by omega⟩

/-- A POLL that does not end the DRAIN, before the POLLs that do. -/
theorem Drains.cons (h : exec .poll s = .next u) (ho : u.outcomes.getLast? ≠ some (.polled none)) (hb : u.busy = false)
    (hc : u.contents = s.contents.drop 1) (d : Drains u k t) : Drains s (k + 1) t where
  runs := (runOps_cons_next h).trans d.runs
  ends := d.ends
  taken := by rw [d.taken, hc, List.drop_drop, Nat.add_comm]
  first := fun j v hj hjk hv => by
    obtain _ | j := j
    · omega
    · rw [List.replicate_succ, runOps_cons_next h] at hv
      obtain _ | j := j
      · cases hv; exact ⟨ho, hb⟩
      · exact d.first (j + 1) v (Nat.succ_pos _) (by omega) hv

/-- DRAIN with fuel for the bytes held and one POLL more. -/
theorem drainWithin_drains {fuel : Nat} (inv : BlockInv s) (hb : s.busy = false) (hf : s.contents.length < fuel) :
    ∃ k t, 0 < k ∧ k ≤ s.contents.length + 1 ∧ drainWithin fuel s = .next t ∧ Drains s k t := by
  induction fuel generalizing s with
  | zero => omega
  | succ fuel ih =>
    cases hc : s.contents with
    | nil =>
      obtain ⟨hx, hd⟩ := drainWithin_poll fuel hb (pollBody_empty (empty_of_contents_nil inv.queue hc))
      exact ⟨1, _, Nat.one_pos, Nat.le_refl _, hd.trans rfl, .last hx (.inl List.getLast?_concat) (by rw [record_contents, hc]; rfl)⟩
    | cons b cs =>
      obtain ⟨k, u, hp, hinv, hcont, -⟩ := pollBody_cons inv hb hc
      obtain ⟨hx, hd⟩ := drainWithin_poll fuel hb hp
      have hdrop : (u.record (.polled (some k))).contents = s.contents.drop 1 := by rw [record_contents, hcont, hc]; rfl
      cases hub : u.busy with
      | true =>
        rw [hub] at hd
        exact ⟨1, _, Nat.one_pos, by simp, hd.trans (by simp [endsDrain]), .last hx (.inr hub) hdrop⟩
      | false =>
        rw [hub] at hd
        rw [hc, List.length_cons] at hf
        obtain ⟨n, t, hn, hle, hdr, d⟩ := ih (s := u.record (.polled (some k))) (hinv.record _) hub
          (by rw [record_contents, hcont]; omega)
        rw [record_contents, hcont] at hle
        refine ⟨n + 1, t, Nat.succ_pos _, Nat.succ_le_succ hle, hd.trans ?_, d.cons hx ?_ hub hdrop⟩
        · rw [if_neg (by simp [endsDrain]), hdr]
        · rw [record_outcomes, List.getLast?_concat]; simp

/-! Endless executions -/

/-- POLL is taken again and again: while `busy = 0` lasts the consumer is fair, and `busy = 1` is answered. -/
theorem Execution.polls_again (e : Execution) (hfair : e.consumerFair) (hans : e.environmentAnswers) (k : Nat) :
    ∃ j, k ≤ j ∧ e.op j = some .poll := by
  by_contra hno
  have hno : ∀ j, k ≤ j → e.op j ≠ some .poll := fun j hj h => hno ⟨j, hj, h⟩
  have stays : ∀ m, k ≤ m → (e.state m).busy = false → ∀ j, m ≤ j → (e.state j).busy = false := by
    intro m hm hb j hj
    induction j, hj using Nat.le_induction with
    | base => exact hb
    | succ j hj ih =>
      rcases e.moment_cases j with ⟨-, hrest⟩ | ⟨i, hop, hx, -⟩
      · rw [hrest]; exact ih
      · refine Bool.eq_false_iff.mpr fun ht => hno j (hm.trans hj) ?_
        rw [hop, (busy_set hx ih ht).1]
  have free : ∃ m, k ≤ m ∧ (e.state m).busy = false := by
    cases hb : (e.state k).busy with
    | false => exact ⟨k, Nat.le_refl k, hb⟩
    | true =>
      obtain ⟨j, hj, hw⟩ := hans k hb
      exact ⟨j + 1, Nat.le_succ_of_le hj, e.busy_after_wait hw⟩
  obtain ⟨m, hm, hb⟩ := free
  obtain ⟨j, hj, hp⟩ := hfair m (stays m hm hb)
  exact hno j (hm.trans hj) hp

/-- From `s` to `t` with `n` bytes dequeued by POLLs: what `s` held is dequeued or still held. -/
structure Dequeues (n : Nat) (s t : State) : Prop where
  inv : BlockInv t
  history : ∃ os, t.outcomes = s.outcomes ++ os ∧ polledBytes os = n
  balance : s.count ≤ n + t.count

theorem Dequeues.refl (inv : BlockInv s) : Dequeues 0 s s := ⟨inv, ⟨[], by simp⟩, by omega⟩

theorem Dequeues.trans {m n : Nat} (h : Dequeues m s t) (g : Dequeues n t u) : Dequeues (m + n) s u := by
  obtain ⟨-, ⟨os, hos, rfl⟩, hs⟩ := h
  obtain ⟨inv, ⟨os', hos', rfl⟩, ht⟩ := g
  exact ⟨inv, ⟨os ++ os', by rw [hos', hos, List.append_assoc], polledBytes_append os os'⟩, by omega⟩

theorem polledBytes_map_stored (bs : List Byte) : polledBytes (bs.map OpOutcome.stored) = 0 := by
  induction bs with
  | nil => rfl
  | cons b bs ih => exact ih

theorem polledBytes_map_dropped (bs : List Byte) : polledBytes (bs.map OpOutcome.dropped) = 0 := by
  induction bs with
  | nil => rfl
  | cons b bs ih => exact ih

theorem dequeues_rx (inv : BlockInv s) (h : runOps (rx bs) s = .next t) : Dequeues 0 s t := by
  have hle := contents_length_le inv.queue
  obtain ⟨v, hv, hq, hcont, hout⟩ := rx_outcomes inv.params.1 inv.queue bs (room := s.cfg.n - 1 - s.contents.length) (by omega)
  cases hv.symm.trans h
  refine ⟨inv.runOps_next h, ⟨_, by rw [hout, List.append_assoc], ?_⟩, ?_⟩
  · rw [polledBytes_append, polledBytes_map_stored, polledBytes_map_dropped]
  · rw [← contents_length inv.queue, ← contents_length hq, hcont, List.length_append]; omega

theorem dequeues_poll (inv : BlockInv s) (h : exec .poll s = .next t) : ∃ n, Dequeues n s t ∧ (n = 1 ∨ s.count = 0) := by
  have hb := (exec_poll_cases h).1
  cases hc : s.contents with
  | nil =>
    have he := empty_of_contents_nil inv.queue hc
    cases (exec_poll_empty hb he).symm.trans h
    exact ⟨0, ⟨inv.record _, ⟨_, rfl, rfl⟩, by rw [record_count]; omega⟩, .inr ((empty_iff_count inv.queue.tail_lt).mp he)⟩
  | cons b cs =>
    obtain ⟨k, v, hv, hinv, hcont, hout⟩ := exec_poll_cons inv hb hc
    cases hv.symm.trans h
    refine ⟨1, ⟨hinv, ⟨_, hout, rfl⟩, ?_⟩, .inl rfl⟩
    rw [← contents_length inv.queue, ← contents_length hinv.queue, hcont, hc, List.length_cons]; omega

theorem dequeues_respond {resp : List Byte} (inv : BlockInv s) (h : exec (.respond resp) s = .next t) : Dequeues 0 s t := by
  have hinv : BlockInv t := stepKeepsInvariants.1 _ _ _ inv h
  rcases exec_respond_next h with ⟨-, ⟨-, rfl⟩ | ⟨-, rfl⟩⟩ <;> exact ⟨hinv, ⟨_, rfl, rfl⟩, by simp⟩

/-- One moment without RESET; at a POLL a byte is dequeued, or none was held. -/
theorem Execution.dequeues_succ (e : Execution) {j : Nat} (inv : BlockInv (e.state j)) (hr : e.op j ≠ some .reset) :
    ∃ n, Dequeues n (e.state j) (e.state (j + 1)) ∧ (e.op j = some .poll → n = 1 ∨ (e.state j).count = 0) := by
  rcases e.moment_cases j with ⟨hop, hrest⟩ | ⟨i, hop, hx, ⟨b, rfl⟩ | rfl | ⟨resp, rfl⟩ | rfl | ⟨p, rfl⟩⟩
  · exact ⟨0, by rw [hrest]; exact .refl inv, fun h => by rw [hop] at h; cases h⟩
  · exact ⟨0, dequeues_rx inv ((runOps_rx_singleton b _).trans hx), fun h => by rw [hop] at h; cases h⟩
  · obtain ⟨n, hn, hor⟩ := dequeues_poll inv hx
    exact ⟨n, hn, fun _ => hor⟩
  · exact ⟨0, dequeues_respond inv hx, fun h => by rw [hop] at h; cases h⟩
  · exact absurd hop hr
  · exact ⟨0, dequeues_rx inv (exec_frame_next hx).2, fun h => by rw [hop] at h; cases h⟩

theorem Execution.dequeues_later (e : Execution) {k j : Nat} (inv : BlockInv (e.state k)) (hr : ∀ j, k ≤ j → e.op j ≠ some .reset)
    (hj : k ≤ j) : ∃ n, Dequeues n (e.state k) (e.state j) := by
  induction j, hj using Nat.le_induction with
  | base => exact ⟨0, .refl inv⟩
  | succ j hj ih =>
    obtain ⟨n, hn⟩ := ih
    obtain ⟨m, hm, -⟩ := e.dequeues_succ hn.inv (hr j hj)
    exact ⟨n + m, hn.trans hm⟩

/-- With POLL taken again and again, any number of bytes is dequeued, or all that were held. -/
theorem Execution.dequeues_many (e : Execution) (hpoll : ∀ k, ∃ j, k ≤ j ∧ e.op j = some .poll) {k : Nat}
    (inv : BlockInv (e.state k)) (hr : ∀ j, k ≤ j → e.op j ≠ some .reset) (m : Nat) :
    ∃ j n, k ≤ j ∧ Dequeues n (e.state k) (e.state j) ∧ (m ≤ n ∨ (e.state k).count ≤ n) := by
  induction m with
  | zero => exact ⟨k, 0, Nat.le_refl k, .refl inv, .inl (Nat.le_refl 0)⟩
  | succ m ih =>
    obtain ⟨j, n, hj, hd, hor⟩ := ih
    obtain ⟨l, hl, hp⟩ := hpoll j
    obtain ⟨n', hd'⟩ := e.dequeues_later hd.inv (fun i hi => hr i (hj.trans hi)) hl
    obtain ⟨n'', hd'', hlast⟩ := e.dequeues_succ hd'.inv (hr l (hj.trans hl))
    have hall := hd.trans hd'
    refine ⟨l + 1, n + n' + n'', by omega, hall.trans hd'', ?_⟩
    have hbal := hall.balance
    rcases hlast hp with hone | hempty <;> omega

/-- Settles O29: `polls_end`; `drainWithin_drains`; and for executions `Execution.polls_again` with `Execution.dequeues_many`. -/
theorem drainEnds : Obligations.DrainEnds := by
  refine ⟨fun s inv hb => ?_, fun s inv hb => ?_, fun e hfair hans => ?_⟩
  · obtain ⟨k, t, hk, ht, hend, hdrop⟩ := polls_end inv hb rfl
    refine ⟨k, t, contents_length inv.queue ▸ hk, ht, hend.imp (fun hnil => ?_) id, hdrop⟩
    rw [← contents_length (inv.runOps_next ht).queue, hnil, List.length_nil]
  · obtain ⟨k, t, hpos, hk, hd, d⟩ := drainWithin_drains (fuel := s.count + 1) inv hb
      (contents_length inv.queue ▸ Nat.lt_succ_self _)
    exact ⟨k, t, hpos, contents_length inv.queue ▸ hk, hd, d.runs, d.ends, d.taken, d.first⟩
  · have hpoll := e.polls_again hfair hans
    refine ⟨hpoll, fun k inv hr => ?_⟩
    obtain ⟨j, n, hj, ⟨-, ⟨os, hos, rfl⟩, -⟩, hor⟩ := e.dequeues_many hpoll inv hr (e.state k).count
    exact ⟨j, os, hj, hos, hor.elim id id⟩

end Sys2Proof.Machine
end

section
/-! PROOF. The dispatcher's function: the set of its responses, the command table, the split of the `motor:` arguments
(43_dispatcher_collaborator.md R103 to R113). -/

namespace Sys2Proof.Machine.Dispatcher

variable {l r d s rest cmd p steps dir : List Byte}

/-! Prefixes and splits -/

theorem afterPrefix_append (p r : List Byte) : afterPrefix p (p ++ r) = some r := by
  induction p with
  | nil => rfl
  | cons b p ih => rw [List.cons_append, afterPrefix, if_pos rfl, ih]

theorem afterPrefix_eq_some (h : afterPrefix p s = some r) : s = p ++ r := by
  induction p generalizing s with
  | nil => cases h; rfl
  | cons b p ih =>
    cases s with
    | nil => cases h
    | cons c s =>
      rw [afterPrefix] at h
      split at h
      · rename_i hbc; rw [hbc, ih h, List.cons_append]
      · cases h

theorem splitFirst_of_not_mem (h : colon ∉ s) : splitFirst s = none := by
  induction s with
  | nil => rfl
  | cons b s ih =>
    obtain ⟨hb, hs⟩ := List.ne_and_not_mem_of_not_mem_cons h
    rw [splitFirst, if_neg hb.symm, ih hs]

theorem splitFirst_append (h : colon ∉ l) : splitFirst (l ++ colon :: d) = some (l, d) := by
  induction l with
  | nil => rfl
  | cons b l ih =>
    obtain ⟨hb, hl⟩ := List.ne_and_not_mem_of_not_mem_cons h
    rw [List.cons_append, splitFirst, if_neg hb.symm, ih hl]

theorem splitLast_of_not_mem (h : colon ∉ s) : splitLast s = none := by
  induction s with
  | nil => rfl
  | cons b s ih =>
    obtain ⟨hb, hs⟩ := List.ne_and_not_mem_of_not_mem_cons h
    rw [splitLast, ih hs]
    exact if_neg hb.symm

theorem splitLast_append (h : colon ∉ d) : splitLast (l ++ colon :: d) = some (l, d) := by
  induction l with
  | nil => rw [List.nil_append, splitLast, splitLast_of_not_mem h]; rfl
  | cons b l ih => rw [List.cons_append, splitLast, ih]

/-- Around the first and around the last `':'`, where there is one. -/
theorem exists_splits (h : colon ∈ s) : ∃ l d l' d', s = l ++ colon :: d ∧ colon ∉ l ∧ s = l' ++ colon :: d' ∧ colon ∉ d' := by
  obtain ⟨l, d, hs, hl⟩ := List.eq_append_cons_of_mem h
  obtain ⟨d', l', hs', hd'⟩ := List.eq_append_cons_of_mem (List.mem_reverse.mpr h)
  exact ⟨l, d, l'.reverse, d'.reverse, hs, hl, by simpa using congrArg List.reverse hs', by simpa using hd'⟩

/-! The `motor:` arguments (R108) -/

theorem validArgs_iff : validArgs steps dir = true ↔
    steps ≠ [] ∧ (∀ b, b ∈ steps → 0x30 ≤ b.toNat ∧ b.toNat ≤ 0x39) ∧ (dir = [0x30] ∨ dir = [0x31]) := by
  simp [validArgs, isDigit, and_assoc]

/-- Neither a digit string nor a direction holds a `':'`. -/
theorem validArgs_no_colon (h : validArgs steps dir = true) : colon ∉ steps ∧ colon ∉ dir := by
  obtain ⟨-, hdig, hdir⟩ := validArgs_iff.mp h
  refine ⟨fun hc => absurd (hdig colon hc) (by decide), ?_⟩
  rcases hdir with rfl | rfl <;> decide

/-- With more than one `':'` either split leaves one in the arguments, and with one both splits are the same. -/
theorem motorReply_split (s : List Byte) : motorReply (splitLast s) = motorReply (splitFirst s) := by
  by_cases hc : colon ∈ s
  · obtain ⟨l, d, l', d', hs, hl, hs', hd'⟩ := exists_splits hc
    have hfirst : splitFirst s = some (l, d) := by rw [hs]; exact splitFirst_append hl
    have hlast : splitLast s = some (l', d') := by rw [hs']; exact splitLast_append hd'
    by_cases hd : colon ∈ d
    · have hl' : colon ∈ l' := by
        have hcount := congrArg (List.count colon) (hs.symm.trans hs')
        simp only [List.count_append, List.count_cons_self, List.count_eq_zero.mpr hl, List.count_eq_zero.mpr hd'] at hcount
        exact List.count_pos_iff.mp (by have := List.count_pos_iff.mpr hd; omega)
      have hbad : validArgs l d = false := Bool.eq_false_iff.mpr fun h => (validArgs_no_colon h).2 hd
      have hbad' : validArgs l' d' = false := Bool.eq_false_iff.mpr fun h => (validArgs_no_colon h).1 hl'
      simp [hfirst, hlast, motorReply, hbad, hbad']
    · rw [hfirst, hs, splitLast_append hd]
  · rw [splitLast_of_not_mem hc, splitFirst_of_not_mem hc]

/-! The forms (R106 to R110) -/

theorem replyTo_ping : replyTo strPing = { resp := ackPong, drive := none } := rfl

theorem replyTo_led (rest : List Byte) : replyTo (strLed ++ rest) = ledReply rest := by
  have hne : strLed ++ rest ≠ strPing := by simp [strLed, strPing]
  rw [replyTo, if_neg hne, afterPrefix_append]

theorem replyTo_motor (rest : List Byte) :
    replyTo (strMotor ++ rest) = { resp := motorReply (splitFirst rest), drive := none } := by
  have hne : strMotor ++ rest ≠ strPing := by simp [strMotor, strPing]
  have hled : afterPrefix strLed (strMotor ++ rest) = none := rfl
  rw [replyTo, if_neg hne, hled, afterPrefix_append]

theorem replyTo_unknown (h1 : cmd ≠ strPing) (h2 : ∀ rest, cmd ≠ strLed ++ rest) (h3 : ∀ rest, cmd ≠ strMotor ++ rest) :
    replyTo cmd = { resp := unknown, drive := none } := by
  have hled : afterPrefix strLed cmd = none := Option.eq_none_iff_forall_ne_some.mpr fun r hr => h2 r (afterPrefix_eq_some hr)
  have hmotor : afterPrefix strMotor cmd = none := Option.eq_none_iff_forall_ne_some.mpr fun r hr => h3 r (afterPrefix_eq_some hr)
  rw [replyTo, if_neg h1, hled, hmotor]

/-- Every string is of one of the four forms. -/
theorem command_cases (cmd : List Byte) :
    cmd = strPing ∨ (∃ rest, cmd = strLed ++ rest) ∨ (∃ rest, cmd = strMotor ++ rest) ∨
      replyTo cmd = { resp := unknown, drive := none } := by
  by_cases h1 : cmd = strPing
  · exact .inl h1
  by_cases h2 : ∃ rest, cmd = strLed ++ rest
  · exact .inr (.inl h2)
  by_cases h3 : ∃ rest, cmd = strMotor ++ rest
  · exact .inr (.inr (.inl h3))
  exact .inr (.inr (.inr (replyTo_unknown h1 (not_exists.mp h2) (not_exists.mp h3))))

/-- The complete set of responses (R111). -/
def responses : List (List Byte) := [ackPong, ledOk, ledErr, motorOk, motorFormat, motorBadArgs, unknown]

theorem length_of_mem_responses : ∀ r, r ∈ responses → 0 < r.length ∧ r.length ≤ 18 := by decide

theorem ledReply_mem (rest : List Byte) : (ledReply rest).resp ∈ responses := by
  unfold ledReply
  split
  · decide
  · split <;> decide

theorem motorReply_mem (x : Option (List Byte × List Byte)) : motorReply x ∈ responses := by
  unfold motorReply
  split
  · decide
  · split <;> decide

theorem handle_resp_mem (p : List Byte) : (handle p).resp ∈ responses := by
  rw [handle]
  rcases command_cases (trim (untilTerm p)) with h | ⟨rest, h⟩ | ⟨rest, h⟩ | h
  · rw [h]; decide
  · rw [h, replyTo_led]; exact ledReply_mem rest
  · rw [h, replyTo_motor]; exact motorReply_mem _
  · rw [h]; decide

/-- Settles O56: every form answers with one of the seven (`handle_resp_mem`), whose lengths are theirs to count. -/
theorem dispatcherAnswersOneOfSeven : Obligations.DispatcherAnswersOneOfSeven :=
  fun p => ⟨handle_resp_mem p, length_of_mem_responses _ (handle_resp_mem p)⟩

/-- Settles O57, form by form: `replyTo_ping`, `replyTo_led`, `replyTo_motor`, `replyTo_unknown`. -/
theorem dispatcherFollowsCommandTable : Obligations.DispatcherFollowsCommandTable := by
  intro p cmd r
  have hr : r = replyTo cmd := rfl
  rw [hr]
  refine ⟨fun h => by rw [h, replyTo_ping], fun rest h => ?_, fun rest h hc => ?_, fun steps dir h hc => ?_, replyTo_unknown⟩
  · rw [h, replyTo_led]
    refine ⟨fun hon => by rw [ledReply, if_pos hon], fun hoff => ?_, fun hon hoff => by rw [ledReply, if_neg hon, if_neg hoff]⟩
    have hon : trim rest ≠ strOn := by rw [hoff]; decide
    rw [ledReply, if_neg hon, if_pos hoff]
  · rw [h, replyTo_motor, splitFirst_of_not_mem hc]; rfl
  · rw [h, List.append_assoc, List.append_assoc, replyTo_motor, List.singleton_append, splitFirst_append hc, motorReply]
    simp only [validArgs_iff]

/-- Settles O58: only the `motor:` form is split, and either split gives its answer (`motorReply_split`). -/
theorem motorSplitDoesNotMatter : Obligations.MotorSplitDoesNotMatter := by
  intro p
  rw [handleLastSplit, handle]
  cases h : afterPrefix strMotor (trim (untilTerm p)) with
  | none => rfl
  | some rest => rw [afterPrefix_eq_some h, replyTo_motor, ← motorReply_split]

theorem untilTerm_untilTerm (p : List Byte) : untilTerm (untilTerm p) = untilTerm p := by
  simp [untilTerm, List.takeWhile_takeWhile]

/-- The answer to a payload is that to its string (R104). -/
theorem handle_untilTerm (p : List Byte) : handle (untilTerm p) = handle p := by
  rw [handle, handle, untilTerm_untilTerm]

end Sys2Proof.Machine.Dispatcher
end

section
/-! PROOF. End to end (43_dispatcher_collaborator.md R117): a frame received, parsed by the POLLs that follow, answered and framed. -/

namespace Sys2Proof.Machine

variable {s t u r r' : State} {b : Byte} {k : ByteClass} {bs cs p : List Byte}

/-! POLLs of the bytes held are FEEDs of them -/

/-- FEEDs add deliveries and take none back. -/
theorem feeds_deliveries_prefix (h : runOps (feeds bs) r = .next r') : r.deliveries <+: r'.deliveries := by
  induction bs generalizing r with
  | nil => cases h; exact List.prefix_refl _
  | cons b bs ih =>
    obtain ⟨u, hu, hrest⟩ := runOps_cons_eq_next h
    refine List.IsPrefix.trans ?_ (ih hrest)
    rcases feedRow_deliveries rfl hu with hsame | ⟨d, hd⟩
    · rw [hsame]
    · exact ⟨[d], hd.symm⟩

/-- A POLL that takes byte `b` does to the parser's part what FEED of `b` does to it where it stands in `r`. -/
theorem exec_poll_of_feedByte (q : QueueInv s) (hr : r.parserOnto s = s) (hb : s.busy = false) (hc : s.contents = b :: cs)
    (hf : feedByte b r = .ok (k, u)) :
    ∃ t, exec .poll s = .next t ∧ u.parserOnto t = t ∧ QueueInv t ∧ t.busy = decide (k = .csumOk) ∧ t.contents = cs ∧
      t.tx = s.tx := by
  obtain ⟨he, hread, hq, hcs⟩ := dequeue_contents_cons q hc
  have hf' := feedByte_parserOnto_ok hf (s.setTail (advance s.cfg.n s.tail))
  rw [show r.parserOnto (s.setTail (advance s.cfg.n s.tail)) = (r.parserOnto s).setTail (advance s.cfg.n s.tail) from rfl, hr] at hf'
  obtain ⟨hkq, hbusy, htx, ⟨hcfg, -⟩, -⟩ := feedByte_keeps hf'
  have hx := exec_poll_of_ok hb (pollBody_of_feedByte he q.tail_lt hread hf')
  rw [setBusy_if (hbusy.trans hb)] at hx
  exact ⟨_, hx, rfl, hq.congr hcfg hkq, rfl, (contents_congr (s := s.setTail (advance s.cfg.n s.tail)) hcfg hkq).trans hcs, htx⟩

/-- POLLs of bytes whose FEEDs deliver nothing. -/
theorem polls_of_feeds (q : QueueInv s) (hr : r.parserOnto s = s) (hb : s.busy = false) (hc : s.contents = bs ++ cs)
    (h : runOps (feeds bs) r = .next r') (hd : r'.deliveries = r.deliveries) :
    ∃ t, runOps (List.replicate bs.length .poll) s = .next t ∧ r'.parserOnto t = t ∧ QueueInv t ∧ t.busy = false ∧
      t.contents = cs ∧ t.tx = s.tx := by
  induction bs generalizing s r with
  | nil => cases h; exact ⟨s, rfl, hr, q, hb, hc, rfl⟩
  | cons b bs ih =>
    obtain ⟨v, hv, hrest⟩ := runOps_cons_eq_next h
    obtain ⟨k, u, hf, rfl⟩ := exec_feed_next hv
    have hle : u.deliveries.length ≤ r.deliveries.length := hd ▸ (feeds_deliveries_prefix hrest).length_le
    have hu : k ≠ .csumOk ∧ u.deliveries = r.deliveries := by
      rcases feedByte_deliveries_grow hf with hsame | ⟨-, d, hgrow⟩
      · exact hsame
      · rw [hgrow, List.length_append] at hle
        exact absurd hle (by simp)
    obtain ⟨w, hw, hpo, hq, hbusy, hcont, htx⟩ := exec_poll_of_feedByte q hr hb hc hf
    obtain ⟨t, ht, hpo, hq, hbusy, hcont, htx'⟩ := ih hq (r := u.record (.fed k)) hpo
      (by rw [hbusy, decide_eq_false hu.1]) hcont hrest (hd.trans hu.2.symm)
    exact ⟨t, (runOps_cons_next hw).trans ht, hpo, hq, hbusy, hcont, htx'.trans htx⟩

/-! The dispatcher's reading of the buffer (R104) -/

/-- What the dispatcher reads at a payload with its terminator behind it is the payload's string. -/
theorem readString_untilTerm {m : Memory} {i fuel : Nat} (hp : Memory.readRange m i p.length = some p)
    (ht : Memory.read m (i + p.length) = some term) (hf : p.length < fuel) :
    readString m i fuel = some (Dispatcher.untilTerm p) := by
  induction p generalizing i fuel with
  | nil =>
    obtain _ | fuel := fuel
    · exact absurd hf (Nat.not_lt_zero _)
    · rw [List.length_nil, Nat.add_zero] at ht
      simp [readString, ht, Dispatcher.untilTerm]
  | cons b p ih =>
    obtain _ | fuel := fuel
    · exact absurd hf (Nat.not_lt_zero _)
    · obtain ⟨-, hk⟩ := Memory.readRange_eq_some.mp hp
      have hb : Memory.read m i = some b := by simpa using hk 0 (Nat.succ_pos _)
      have hrest : Memory.readRange m (i + 1) p.length = some p :=
        Memory.readRange_eq_some.mpr ⟨rfl, fun j hj => by
          simpa [Nat.add_assoc, Nat.add_comm 1 j] using hk (j + 1) (Nat.succ_lt_succ hj)⟩
      have hstr := ih hrest (by simpa [Nat.add_assoc, Nat.add_comm 1] using ht) (Nat.lt_of_succ_lt_succ hf)
      by_cases hterm : b = term
      · simp [readString, hb, hterm, Dispatcher.untilTerm]
      · simp [readString, hb, hterm, hstr, Dispatcher.untilTerm]

/-- The answer to a delivered payload whose response is in range: the response framed, `busy` cleared, the output driven. -/
theorem World.answer_of_readString {w : World} {str : List Byte} (hb : w.block.busy = true)
    (hs : readString w.block.payloadBuffer 0 w.block.cfg.maxPayload = some str)
    (hl : lengthInRange w.block.cfg.maxPayload (Dispatcher.handle str).resp.length = true) :
    w.answer = .next
      { block := ((w.block.setTx (w.block.tx ++ frameGroups (Dispatcher.handle str).resp)).setBusy false).record .sent
        armed := w.armed
        digitalOut := (Dispatcher.handle str).drive.getD w.digitalOut } := by
  rw [World.answer, if_pos hb, hs]
  dsimp only
  rw [exec_respond_of_busy hb, sendBody_sent hl]; rfl

/-! The whole way -/

/-- A frame held alone in the queue of a parser in `Idle` is delivered by the POLLs of its bytes. -/
theorem polls_deliver_frame (inv : BlockInv s) (hb : s.busy = false) (hs : s.pstate = .idle) (hpos : 0 < p.length)
    (hlt : p.length < s.cfg.maxPayload) (hc : s.contents = frameOf p) :
    ∃ t, runOps (List.replicate (p.length + 3) .poll) s = .next t ∧ t.cfg = s.cfg ∧ t.busy = true ∧ t.pstate = .idle ∧
      t.deliveries = s.deliveries ++ [{ n := p.length, payload := p }] ∧ QueueInv t ∧ t.contents = [] ∧ t.tx = s.tx ∧
      Memory.readRange t.payloadBuffer 0 p.length = some p ∧ Memory.read t.payloadBuffer p.length = some term := by
  obtain ⟨v, hv, hpv⟩ := parsedTo_checksum inv.params hs hpos hlt
  obtain ⟨x, hx, hxo, hxq, hxb, hxc, hxt⟩ := polls_of_feeds inv.queue (r := s) rfl hb (cs := [cksum p]) hc hv hpv.deliveries
  obtain ⟨t, ht, hto, htq, htb, htc, htt⟩ := exec_poll_of_feedByte hxq hxo hxb hxc (hpv.deliver hlt)
  have hrun : runOps (List.replicate (p.length + 3) .poll) s = .next t := by
    rw [show List.replicate (p.length + 3) Instr.poll =
      List.replicate ([sof, BitVec.ofNat 8 p.length] ++ p).length .poll ++ [.poll] by
        rw [← List.replicate_succ']; simp, runOps_append_next hx, runOps_cons_next ht]; rfl
  have hwrite : t.payloadBuffer = Memory.write v.payloadBuffer p.length term := by rw [← hto, ← hpv.declared]; rfl
  refine ⟨t, hrun, ?_, htb, by rw [← hto]; rfl, ?_, htq, htc, htt.trans hxt, ?_, ?_⟩
  · rw [← hto]; exact hpv.setting.1
  · rw [← hto, ← hpv.deliveries]
    exact congrArg (fun n => v.deliveries ++ [Delivery.mk n p]) hpv.declared
  · rw [hwrite, Memory.readRange_write_outside _ _ (by omega), hpv.stored]
  · rw [hwrite, Memory.read_write_same]

/-- Settles O60: the frame arrives whole (`frameArrivesWhole`), is delivered (`polls_deliver_frame`), and the dispatcher's answer to the
standing payload (`readString_untilTerm`) is in range of the ceiling (R111) and framed (`World.answer_of_readString`). -/
theorem commandIsAnsweredEndToEnd : Obligations.CommandIsAnsweredEndToEnd := by
  intro p w inv hq hidle hmax hpos hlt hroom
  obtain ⟨he, hb⟩ : w.block.empty = true ∧ w.block.busy = false := by simpa [State.quiescent] using hq
  have h0 := (empty_iff_count inv.queue.tail_lt).mp he
  obtain ⟨s, hs, hcont, -⟩ := frameArrivesWhole p w.block inv hpos hlt (by omega)
  rw [contents_nil h0, List.nil_append] at hcont
  obtain ⟨-, ⟨hps, -⟩, -, hbusy, ⟨hdel, htx⟩, ⟨hcfg, -⟩⟩ := producerKeeps_frame hs
  have invs : BlockInv s := stepKeepsInvariants.1 _ _ _ inv hs
  obtain ⟨t, ht, htcfg, htb, htps, htd, htq, htc, httx, hread, hterm⟩ :=
    polls_deliver_frame invs (hbusy.trans hb) (hps.trans hidle) hpos (hcfg ▸ hlt) hcont
  have hstr : readString t.payloadBuffer 0 t.cfg.maxPayload = some (Dispatcher.untilTerm p) :=
    readString_untilTerm hread (by rw [Nat.zero_add, hterm]) (by rw [htcfg, hcfg]; exact hlt)
  have hresp := Dispatcher.length_of_mem_responses _ (Dispatcher.handle_resp_mem p)
  have hl : lengthInRange t.cfg.maxPayload (Dispatcher.handle (Dispatcher.untilTerm p)).resp.length = true := by
    rw [Dispatcher.handle_untilTerm, lengthInRange_iff, htcfg, hcfg]; omega
  have hans := World.answer_of_readString (w := { w with block := t }) htb hstr hl
  rw [Dispatcher.handle_untilTerm] at hans
  refine ⟨t, _, (runOps_cons_next hs).trans ht, htb, by rw [htd, hdel], hans, ?_, rfl, ?_, htps, rfl⟩
  · simp [httx, htx, frameGroups_flatten]
  · have hte : t.empty = true := empty_of_contents_nil htq htc
    simp [State.quiescent, hte]

end Sys2Proof.Machine
end
